-- ==== Sys2Proof/Word.lean ====
section
/-! DEFINITION. The two word types of the core: a byte of the payload buffer and a 32-bit word of the host interface. -/

namespace Sys2Proof

/-- One byte of BUF or of the byte channel (`10_state.md` R16). -/
abbrev Byte := BitVec 8

/-- A word of the host interface: a command word (`30_encoding.md` R56) or a register answer (`10_state.md` R23). -/
abbrev Word := BitVec 32

end Sys2Proof
end

