-- ==== Sys2Proof/Config.lean ====
section
/-! DEFINITION. What is fixed for the machine (the parameters of `00_scope.md` R7, log 17) and the one free value, the sink's answer. -/

namespace Sys2Proof

/-- The sink's answer to one sink event (`43_demux.md` R88). -/
inductive SinkAnswer where
  | ok
  | fail
deriving DecidableEq, Repr, Inhabited

namespace Config

/-- BUF_LEN_MAX: the largest payload, in bytes, that SUBMIT accepts (R7). -/
@[simp] abbrev bufLenMax : Nat := 65535

/-- LEN_W: the width of LEN (R7). -/
@[simp] abbrev lenW : Nat := 16

/-- POS_W: the width of POS (R7). -/
@[simp] abbrev posW : Nat := 19

/-- FPH_W: the width of CFG_FIELDS_PER_HOP (R7). -/
@[simp] abbrev fphW : Nat := 8

/-- NT_W: the width of CFG_NUM_TRANSITS and HOP_IDX (R7). -/
@[simp] abbrev ntW : Nat := 8

/-- FPH_MIN: the smallest fields_per_hop that SUBMIT accepts (R7). -/
@[simp] abbrev fphMin : Nat := 8

/-- W_READ_MAX: the widest READ (R7). -/
@[simp] abbrev wReadMax : Nat := 48

/-- W_SKIP_MAX: the widest SKIP (R7). -/
@[simp] abbrev wSkipMax : Nat := 8191

/-- FIXED_HDR_BITS: the bits of the six fixed headers (R7, R46). -/
@[simp] abbrev fixedHdrBits : Nat := 560

/-- HOP_FIELD_BITS: the bits of one per-hop record that are decoded (R7, R53). -/
@[simp] abbrev hopFieldBits : Nat := 256

/-- The sink's answer where the state lists none: a FREE VALUE, one for each count of such answers (R88, log 3).
It has no body, so a claim about it holds whatever the sink answers. -/
opaque sinkAnswer : Nat → SinkAnswer

end Config
end Sys2Proof
end

