-- ==== Sys2Proof/Syntax.lean ====
section
/-! DEFINITION. The fourteen operations of the core (`30_encoding.md` R57), their operands, and the three kinds of code word that select them. -/

namespace Sys2Proof

/-- A register index of the host's register map (`10_state.md` R23). `reserved i` is index 7 + i. -/
inductive RegSel where
  | metricKind
  | fieldsPerHop
  | numTransits
  | diagTrace
  | status
  | position
  | length
  | reserved (i : Fin 9)
deriving DecidableEq, Repr

/-- A header selector of RDHDR (`30_encoding.md` R56). `reserved i` is selector 7 + i. -/
inductive HdrSel where
  | report
  | eth
  | ipv4
  | udp
  | shim
  | intmeta
  | hop
  | reserved (i : Fin 9)
deriving DecidableEq, Repr

/-- The operations of the core, one constructor per row of the opcode table (`30_encoding.md` R57). -/
inductive Instr where
  /-- READ w: read an unsigned field of w bits (R64). -/
  | read (w : Nat)
  /-- SKIP w: pass over w bits (R66). -/
  | skip (w : Nat)
  /-- DEC_REPORT (R73). -/
  | decReport
  /-- DEC_ETH (R74). -/
  | decEth
  /-- DEC_IPV4 (R75). -/
  | decIpv4
  /-- DEC_UDP (R76). -/
  | decUdp
  /-- DEC_SHIM (R77). -/
  | decShim
  /-- DEC_INTMETA (R78). -/
  | decIntmeta
  /-- DEC_HOP (R80). -/
  | decHop
  /-- ROUTE (R86). -/
  | route
  /-- CFGW r, x: write the configuration register r (R95). -/
  | cfgw (r : RegSel) (x : BitVec 16)
  /-- RDREG r: read the register r (R96). -/
  | rdreg (r : RegSel)
  /-- SUBMIT len: start a job on the len bytes of the byte channel (R94). -/
  | submit (len : Nat)
  /-- RDHDR h: read the header register h (R97). -/
  | rdhdr (h : HdrSel)
deriving DecidableEq, Repr

/-- A code word, in the format that selects the operation (`30_encoding.md` R45 items 2 to 4). -/
inductive CodeWord where
  /-- A BitCursor request (R55). -/
  | cursor (q : BitVec 16)
  /-- A sequencer code, the contents of STATE (`10_state.md` R15). -/
  | sequencer (c : BitVec 4)
  /-- A host command word (R56). -/
  | host (w : Word)
deriving DecidableEq, Repr

end Sys2Proof
end

