-- ==== Sys2Proof/WellFormed.lean ====
section
/-! DEFINITION. Which operations have an encoding: the width limits of READ and SKIP (`30_encoding.md` R55) and the 16 bits of SUBMIT's length (R56). -/

namespace Sys2Proof

/-- The operation has a legal code word. Every register index and header selector has one: what a reserved index does
is the command's own matter (`60_exceptions.md` R105, BadRegister and BadHeader). -/
def Instr.WellFormed : Instr → Bool
  | .read w => decide (w ≤ Config.wReadMax)
  | .skip w => decide (w ≤ Config.wSkipMax)
  | .decReport => true
  | .decEth => true
  | .decIpv4 => true
  | .decUdp => true
  | .decShim => true
  | .decIntmeta => true
  | .decHop => true
  | .route => true
  | .cfgw _ _ => true
  | .rdreg _ => true
  | .submit len => decide (len < 2 ^ 16)
  | .rdhdr _ => true

end Sys2Proof
end

