-- ==== Sys2Proof/Decode.lean ====
section
/-! DEFINITION. The decoders of the three code-word formats (`30_encoding.md` R55, R56, `10_state.md` R15), total and rejecting by name, and the encoder written from the same tables. -/

namespace Sys2Proof

/-- Why a code word selects no operation (`30_encoding.md` R59). -/
inductive Reject where
  /-- STATE holds IDLE, DONE, UNDERRUN or FATAL: no operation is selected (R57). -/
  | noOperation
  /-- STATE holds a reserved code 0xC to 0xF. -/
  | reservedState
  /-- A cursor request has a bit of [14:13] set. -/
  | cursorReservedBits
  /-- A READ request is wider than W_READ_MAX. -/
  | readTooWide
  /-- A host word's OP is not 0x1 to 0x4. -/
  | badOp
  /-- A host word has a bit of [23:16] set. -/
  | hostReservedBits
  /-- SUBMIT has a non-zero SEL. -/
  | selNotZero
  /-- RDREG or RDHDR has a non-zero IMM. -/
  | immNotZero
  /-- A word handed to the table's decoder has bits above its format's width. -/
  | tooWide
deriving DecidableEq, Repr

/-- The register of a 4-bit index (`10_state.md` R23). -/
def RegSel.ofCode (c : BitVec 4) : RegSel :=
  match c.toNat with
  | 0 => .metricKind
  | 1 => .fieldsPerHop
  | 2 => .numTransits
  | 3 => .diagTrace
  | 4 => .status
  | 5 => .position
  | 6 => .length
  | n => .reserved (Fin.ofNat 9 (n - 7))

/-- The 4-bit index of a register (`10_state.md` R23). -/
def RegSel.code : RegSel → BitVec 4
  | .metricKind => 0x0#4
  | .fieldsPerHop => 0x1#4
  | .numTransits => 0x2#4
  | .diagTrace => 0x3#4
  | .status => 0x4#4
  | .position => 0x5#4
  | .length => 0x6#4
  | .reserved i => BitVec.ofNat 4 (7 + i.val)

/-- The header of a 4-bit selector (`30_encoding.md` R56). -/
def HdrSel.ofCode (c : BitVec 4) : HdrSel :=
  match c.toNat with
  | 0 => .report
  | 1 => .eth
  | 2 => .ipv4
  | 3 => .udp
  | 4 => .shim
  | 5 => .intmeta
  | 6 => .hop
  | n => .reserved (Fin.ofNat 9 (n - 7))

/-- The 4-bit selector of a header (`30_encoding.md` R56). -/
def HdrSel.code : HdrSel → BitVec 4
  | .report => 0x0#4
  | .eth => 0x1#4
  | .ipv4 => 0x2#4
  | .udp => 0x3#4
  | .shim => 0x4#4
  | .intmeta => 0x5#4
  | .hop => 0x6#4
  | .reserved i => BitVec.ofNat 4 (7 + i.val)

/-- A BitCursor request: [15] K, [14:13] reserved, [12:0] W (`30_encoding.md` R55). -/
def decodeCursor (q : BitVec 16) : Except Reject Instr :=
  let w := (q.extractLsb' 0 13).toNat
  if q.extractLsb' 13 2 ≠ 0#2 then .error .cursorReservedBits
  else if q.extractLsb' 15 1 = 1#1 then .ok (.skip w)
  else if w ≤ Config.wReadMax then .ok (.read w)
  else .error .readTooWide

/-- The operation STATE selects (`10_state.md` R15, `30_encoding.md` R57). -/
def decodeSequencer (c : BitVec 4) : Except Reject Instr :=
  match c.toNat with
  | 1 => .ok .decReport
  | 2 => .ok .decEth
  | 3 => .ok .decIpv4
  | 4 => .ok .decUdp
  | 5 => .ok .decShim
  | 6 => .ok .decIntmeta
  | 7 => .ok .decHop
  | 8 => .ok .route
  | 0 => .error .noOperation
  | 9 => .error .noOperation
  | 10 => .error .noOperation
  | 11 => .error .noOperation
  | _ => .error .reservedState

/-- A host command word: [31:28] OP, [27:24] SEL, [23:16] reserved, [15:0] IMM (`30_encoding.md` R56). -/
def decodeHost (w : Word) : Except Reject Instr :=
  let op := w.extractLsb' 28 4
  let sel := w.extractLsb' 24 4
  let imm := w.extractLsb' 0 16
  if w.extractLsb' 16 8 ≠ 0#8 then .error .hostReservedBits
  else if op = 0x1#4 then .ok (.cfgw (RegSel.ofCode sel) imm)
  else if op = 0x2#4 then
    if imm = 0#16 then .ok (.rdreg (RegSel.ofCode sel)) else .error .immNotZero
  else if op = 0x3#4 then
    if sel = 0#4 then .ok (.submit imm.toNat) else .error .selNotZero
  else if op = 0x4#4 then
    if imm = 0#16 then .ok (.rdhdr (HdrSel.ofCode sel)) else .error .immNotZero
  else .error .badOp

/-- The decoder: total on every code word (`30_encoding.md` R57, R59). -/
def decode : CodeWord → Except Reject Instr
  | .cursor q => decodeCursor q
  | .sequencer c => decodeSequencer c
  | .host w => decodeHost w

/-- A cursor request word from K and W (`30_encoding.md` R55). -/
def cursorWord (k : BitVec 1) (w : Nat) : BitVec 16 :=
  k ++ 0#2 ++ BitVec.ofNat 13 w

/-- A host command word from OP, SEL and IMM (`30_encoding.md` R56). -/
def hostWord (op sel : BitVec 4) (imm : BitVec 16) : Word :=
  op ++ sel ++ 0#8 ++ imm

/-- The code word of an operation (`30_encoding.md` R55, R56, R57). -/
def encode : Instr → CodeWord
  | .read w => .cursor (cursorWord 0#1 w)
  | .skip w => .cursor (cursorWord 1#1 w)
  | .decReport => .sequencer 0x1#4
  | .decEth => .sequencer 0x2#4
  | .decIpv4 => .sequencer 0x3#4
  | .decUdp => .sequencer 0x4#4
  | .decShim => .sequencer 0x5#4
  | .decIntmeta => .sequencer 0x6#4
  | .decHop => .sequencer 0x7#4
  | .route => .sequencer 0x8#4
  | .cfgw r x => .host (hostWord 0x1#4 r.code x)
  | .rdreg r => .host (hostWord 0x2#4 r.code 0#16)
  | .submit len => .host (hostWord 0x3#4 0#4 (BitVec.ofNat 16 len))
  | .rdhdr h => .host (hostWord 0x4#4 h.code 0#16)

/-- The code word that a row of the opcode table stands for, by the row's width: a sequencer code (4 bits, one byte in
whole bytes), a cursor request (16 bits) or a host word (32 bits). Log 15. -/
def tableWord (nbits w : Nat) : Except Reject CodeWord :=
  if nbits ≤ 8 then
    if w < 2 ^ 4 then .ok (.sequencer (BitVec.ofNat 4 w)) else .error .tooWide
  else if nbits ≤ 16 then
    if w < 2 ^ 16 then .ok (.cursor (BitVec.ofNat 16 w)) else .error .tooWide
  else
    if w < 2 ^ 32 then .ok (.host (BitVec.ofNat 32 w)) else .error .tooWide

/-- The operation the decoder reads from a word of the opcode table (bit 0 its least significant bit). -/
def decodeTableWord (nbits w : Nat) : Option Instr :=
  match tableWord nbits w with
  | .error _ => none
  | .ok c =>
    match decode c with
    | .ok i => some i
    | .error _ => none

end Sys2Proof
end

