-- ==== Sys2Proof/Machine/State.lean ====
section
/-! DEFINITION. Everything the spec gives the machine, as plain data (`10_state.md` R13), the other agents' part beside it (`env`), the reasons a step can stop, and the state after reset. -/

namespace Sys2Proof.Machine

/-- HDR_REPORT (`10_state.md` R22, `30_encoding.md` R47), 128 bits. -/
structure ReportHdr where
  ver : BitVec 4
  len : BitVec 4
  nproto : BitVec 3
  rep_md_bits : BitVec 6
  rsvd : BitVec 6
  d : BitVec 1
  q : BitVec 1
  f : BitVec 1
  hw_id : BitVec 6
  sw_id : BitVec 32
  seq_no : BitVec 32
  ingress_tstamp : BitVec 32
deriving DecidableEq, Repr

/-- HDR_ETH (R22, R48), 112 bits. -/
structure EthHdr where
  dst_addr : BitVec 48
  src_addr : BitVec 48
  etherType : BitVec 16
deriving DecidableEq, Repr

/-- HDR_IPV4 (R22, R49), 160 bits. -/
structure Ipv4Hdr where
  version : BitVec 4
  ihl : BitVec 4
  dscp : BitVec 6
  ecn : BitVec 2
  length : BitVec 16
  identification : BitVec 16
  flags : BitVec 3
  frag_offset : BitVec 13
  ttl : BitVec 8
  protocol : BitVec 8
  hdr_checksum : BitVec 16
  src_addr : BitVec 32
  dst_addr : BitVec 32
deriving DecidableEq, Repr

/-- HDR_UDP (R22, R50), 64 bits. -/
structure UdpHdr where
  src_port : BitVec 16
  dst_port : BitVec 16
  length : BitVec 16
  checksum : BitVec 16
deriving DecidableEq, Repr

/-- HDR_SHIM (R22, R51), 32 bits. -/
structure ShimHdr where
  int_type : BitVec 8
  rsvd1 : BitVec 8
  len : BitVec 8
  dscp : BitVec 6
  rsvd2 : BitVec 2
deriving DecidableEq, Repr

/-- HDR_INTMETA (R22, R52), 64 bits. -/
structure IntmetaHdr where
  ver : BitVec 4
  rep : BitVec 2
  c : BitVec 1
  e : BitVec 1
  m : BitVec 1
  rsvd1 : BitVec 7
  rsvd2 : BitVec 3
  hop_metadata_len : BitVec 5
  remaining_hop_cnt : BitVec 8
  instruction_mask_0003 : BitVec 4
  instruction_mask_0407 : BitVec 4
  instruction_mask_0811 : BitVec 4
  instruction_mask_1215 : BitVec 4
  rsvd3 : BitVec 16
deriving DecidableEq, Repr

/-- HDR_HOP, one per-hop record (R22, R53), 256 bits. -/
structure HopRecord where
  switch_id : BitVec 32
  ingress_port : BitVec 16
  egress_port : BitVec 16
  hop_latency : BitVec 32
  q_id : BitVec 8
  q_occupancy : BitVec 24
  ingress_tstamp : BitVec 32
  egress_tstamp : BitVec 32
  ingress_port_2 : BitVec 16
  egress_port_2 : BitVec 16
  egress_port_tx_util : BitVec 32
deriving DecidableEq, Repr

/-- The header registers and their valid bits (R22). A register whose valid bit is false holds no value of the spec;
what the model keeps in it is not observable (log 13). -/
structure HdrRegs where
  report : ReportHdr
  eth : EthHdr
  ipv4 : Ipv4Hdr
  udp : UdpHdr
  shim : ShimHdr
  intmeta : IntmetaHdr
  hop : HopRecord
  vReport : Bool
  vEth : Bool
  vIpv4 : Bool
  vUdp : Bool
  vShim : Bool
  vIntmeta : Bool
  vHop : Bool
deriving DecidableEq, Repr

/-- The configuration registers with their written bits (R18). KIND: 0 hop_latency, 1 queue_occupancy. -/
structure CfgRegs where
  kind : BitVec 1
  fph : BitVec 8
  nt : BitVec 8
  trace : BitVec 1
  wKind : Bool
  wFph : Bool
  wNt : Bool
  wTrace : Bool
deriving DecidableEq, Repr

/-- The configuration latched by the last SUBMIT (R19). -/
structure JobRegs where
  kind : BitVec 1
  fph : BitVec 8
  nt : BitVec 8
  trace : BitVec 1
deriving DecidableEq, Repr

/-- The four sinks (`43_demux.md` R84). -/
inductive SinkId where
  | sink1
  | sink2
  | sink3
  | sink4
deriving DecidableEq, Repr

/-- One sink event with the sink's answer, as SINK_LOG holds it (`43_demux.md` R89). -/
structure SinkEvent where
  sink : SinkId
  value : BitVec 32
  answer : SinkAnswer
deriving DecidableEq, Repr

/-- One trace event (`43_demux.md` R90). A record's event carries its index. -/
inductive TraceEvent where
  | report (h : ReportHdr)
  | eth (h : EthHdr)
  | ipv4 (h : Ipv4Hdr)
  | udp (h : UdpHdr)
  | shim (h : ShimHdr)
  | intmeta (h : IntmetaHdr)
  | hop (i : BitVec 8) (r : HopRecord)
deriving DecidableEq, Repr

/-- The value of one header register, as RDHDR answers it (`44_pipeline.md` R97). -/
inductive HdrValue where
  | report (h : ReportHdr)
  | eth (h : EthHdr)
  | ipv4 (h : Ipv4Hdr)
  | udp (h : UdpHdr)
  | shim (h : ShimHdr)
  | intmeta (h : IntmetaHdr)
  | hop (r : HopRecord)
deriving DecidableEq, Repr

/-- What the core answers: the word of RDREG, the valid bit and fields of RDHDR (`30_encoding.md` R56), and the value of
a READ that was placed at the BitCursor's port directly (`40_bitcursor.md` R64, log 11). -/
inductive Answer where
  | regWord (v : Word)
  | header (v : Option HdrValue)
  | readValue (w : Nat) (v : BitVec 48)
deriving DecidableEq, Repr

/-- Why a host command is refused (`60_exceptions.md` R105). `shortByteChannel` is the model's own (R100 allows it, log 9). -/
inductive CmdRefusal where
  | illegalWord
  | badRegister
  | reservedBitSet
  | configUnwritten
  | fieldsPerHopTooSmall
  | payloadTooLong
  | submitAfterFatal
  | badHeader
  | shortByteChannel
deriving DecidableEq, Repr

/-- One action that comes from outside the core, or one step given to the core (`00_scope.md` R6, log 1). -/
inductive ScriptEvent where
  /-- The core is given the next step. -/
  | coreTurn
  /-- The reset input (`70_reset_and_hazards.md` R118). -/
  | resetInput
  /-- The host sends a command word, with the bytes that follow it on the byte channel (`30_encoding.md` R56). -/
  | command (w : Word) (bytes : List Byte)
  /-- A request placed at the BitCursor's port directly; the hardware's decoders never leave it to others (R55, log 10). -/
  | cursorRequest (q : BitVec 16)
deriving DecidableEq, Repr

/-- A SUBMIT the busy core holds: its length and the bytes of its byte channel (`44_pipeline.md` R94, log 8). -/
structure HeldSubmit where
  len : Nat
  bytes : List Byte
deriving DecidableEq, Repr

/-- The part of the state that is not the core's: what the host and the sink will do, and what they have been answered.
Every field is the model's own (INVENTORY.md, '## State'). -/
structure Env where
  script : List ScriptEvent
  byteChannel : List Byte
  held : Option HeldSubmit
  sinkAnswers : List SinkAnswer
  freeSeq : Nat
  answers : List Answer
  refusals : List CmdRefusal
deriving DecidableEq, Repr

/-- BUF as a list of (address, byte) cells in one canonical form (log 6); Ops.lean gives the form and the reads. -/
abbrev Memory := List Host.Cell

/-- The machine's state (`10_state.md` R13). `seq` is STATE (R15); `cfg` CFG_*, `job` JOB_*, `hdr` HDR_* and V_*. -/
structure State where
  seq : BitVec 4
  buf : Memory
  len : BitVec 16
  pos : BitVec 19
  cfg : CfgRegs
  job : JobRegs
  hopIdx : BitVec 8
  result : BitVec 2
  errStage : BitVec 4
  hdr : HdrRegs
  sinkLog : List SinkEvent
  traceLog : List TraceEvent
  env : Env
deriving DecidableEq, Repr

/-- The reasons the machine stops with a fault (`60_exceptions.md` R106). Both are safe: no rule of the spec reaches them
from reset, and a stopped run proves nothing. -/
inductive Fault where
  /-- Raised by every step but reset, and by SUBMIT, when STATE holds a reserved code 0xC to 0xF (R15, log 12). Safe. -/
  | reservedState
  /-- Raised by the BitCursor's port on a request `30_encoding.md` R59 calls illegal: a request word with bits [14:13] set
  or a READ wider than 48, and a skip width no request can hold (log 12). Safe. -/
  | illegalCursorRequest
deriving DecidableEq, Repr

/-- The reasons the model gives an instruction no meaning. A host command the SPEC refuses is not one of them: it is a
next state with a mark (R105, log 7). -/
inductive Refusal where
  /-- Raised by a refused arm of `exec`: the instruction has no meaning yet. Safe. No arm raises it. -/
  | notModelled (mnemonic : String)
deriving DecidableEq, Repr

/-! Values at reset: `10_state.md` R27; where it says "no value", zero (DESIGN CHOICE, log 4). -/

/-- HDR_REPORT at reset: no value of the spec (log 4). -/
def ReportHdr.zero : ReportHdr := ⟨0, 0, 0, 0, 0, 0, 0, 0, 0, 0, 0, 0⟩

/-- HDR_ETH at reset: no value of the spec (log 4). -/
def EthHdr.zero : EthHdr := ⟨0, 0, 0⟩

/-- HDR_IPV4 at reset: no value of the spec (log 4). -/
def Ipv4Hdr.zero : Ipv4Hdr := ⟨0, 0, 0, 0, 0, 0, 0, 0, 0, 0, 0, 0, 0⟩

/-- HDR_UDP at reset: no value of the spec (log 4). -/
def UdpHdr.zero : UdpHdr := ⟨0, 0, 0, 0⟩

/-- HDR_SHIM at reset: no value of the spec (log 4). -/
def ShimHdr.zero : ShimHdr := ⟨0, 0, 0, 0, 0⟩

/-- HDR_INTMETA at reset: no value of the spec (log 4). -/
def IntmetaHdr.zero : IntmetaHdr := ⟨0, 0, 0, 0, 0, 0, 0, 0, 0, 0, 0, 0, 0, 0⟩

/-- HDR_HOP at reset: no value of the spec (log 4). -/
def HopRecord.zero : HopRecord := ⟨0, 0, 0, 0, 0, 0, 0, 0, 0, 0, 0⟩

/-- The header registers at reset: every valid bit 0 (R27). -/
def HdrRegs.reset : HdrRegs :=
  { report := .zero, eth := .zero, ipv4 := .zero, udp := .zero, shim := .zero, intmeta := .zero, hop := .zero,
    vReport := false, vEth := false, vIpv4 := false, vUdp := false, vShim := false, vIntmeta := false, vHop := false }

/-- The configuration registers at reset: none written (R27). -/
def CfgRegs.reset : CfgRegs :=
  { kind := 0, fph := 0, nt := 0, trace := 0, wKind := false, wFph := false, wNt := false, wTrace := false }

/-- The latched configuration at reset: no value of the spec (R27, log 4). -/
def JobRegs.reset : JobRegs := { kind := 0, fph := 0, nt := 0, trace := 0 }

/-- The environment at power-up: nothing has come from outside and nothing is to come (log 5). -/
def Env.powerUp : Env :=
  { script := [], byteChannel := [], held := none, sinkAnswers := [], freeSeq := 0, answers := [], refusals := [] }

/-- The machine right after reset at power-up (`10_state.md` R27, `70_reset_and_hazards.md` R118, R120). The logs are
empty because nothing has been handed out yet (log 5). -/
def State.reset : State :=
  { seq := 0x0#4, buf := [], len := 0, pos := 0, cfg := .reset, job := .reset, hopIdx := 0, result := 0, errStage := 0,
    hdr := .reset, sinkLog := [], traceLog := [], env := .powerUp }

end Sys2Proof.Machine
end

