-- ==== Sys2Proof/Machine/Ops.lean ====
section
/-! DEFINITION. The named operations every meaning is written with: STATE codes, BUF and its bit stream, the BitCursor, the output ports, and the two aborts with what ends and clears them. -/

namespace Sys2Proof.Machine

/-! ### The codes of STATE (`10_state.md` R15) and of RESULT (R21) -/

@[simp] abbrev Stage.idle : BitVec 4 := 0x0#4
@[simp] abbrev Stage.report : BitVec 4 := 0x1#4
@[simp] abbrev Stage.eth : BitVec 4 := 0x2#4
@[simp] abbrev Stage.ipv4 : BitVec 4 := 0x3#4
@[simp] abbrev Stage.udp : BitVec 4 := 0x4#4
@[simp] abbrev Stage.shim : BitVec 4 := 0x5#4
@[simp] abbrev Stage.intmeta : BitVec 4 := 0x6#4
@[simp] abbrev Stage.hop : BitVec 4 := 0x7#4
@[simp] abbrev Stage.route : BitVec 4 := 0x8#4
@[simp] abbrev Stage.done : BitVec 4 := 0x9#4
@[simp] abbrev Stage.underrun : BitVec 4 := 0xA#4
@[simp] abbrev Stage.fatal : BitVec 4 := 0xB#4

@[simp] abbrev ResultCode.none : BitVec 2 := 0#2
@[simp] abbrev ResultCode.done : BitVec 2 := 1#2
@[simp] abbrev ResultCode.underrun : BitVec 2 := 2#2
@[simp] abbrev ResultCode.fatal : BitVec 2 := 3#2

/-! ### BUF: canonical memory (log 6) -/

/-- What an address of BUF that the list does not hold reads as. Every byte below LEN was loaded by SUBMIT, so this is the
list's short form of a loaded 0x00, not a value of the model's choosing (log 6). -/
def Memory.unlisted : Byte := 0#8

/-- BUF[a] for an address below LEN (`20_memory.md` R28). Addresses from LEN up do not exist: the cursor's bound check
keeps every access below them (R38). -/
def Memory.read : Memory → Nat → Byte
  | [], _ => Memory.unlisted
  | (k, b) :: rest, a => if k = a then b else Memory.read rest a

/-- The cells of `bytes` laid from address `a` up, in the canonical form. -/
def Memory.loadFrom (a : Nat) : List Byte → Memory
  | [] => []
  | b :: rest => if b = Memory.unlisted then Memory.loadFrom (a + 1) rest else (a, b) :: Memory.loadFrom (a + 1) rest

/-- The one write of BUF: SUBMIT replaces all of it, BUF[0] first (`44_pipeline.md` R94, `20_memory.md` R43). -/
def Memory.load (bytes : List Byte) : Memory := Memory.loadFrom 0 bytes

/-- Addresses strictly rising, each at least `a`, no cell equal to what an unlisted address reads as. -/
def Memory.wfFrom : Nat → Memory → Bool
  | _, [] => true
  | a, (k, b) :: rest => decide (a ≤ k) && decide (b ≠ Memory.unlisted) && Memory.wfFrom (k + 1) rest

/-- The canonical form of BUF (log 6). -/
def Memory.wf (m : Memory) : Bool := Memory.wfFrom 0 m

/-- Every cell lies below LEN: no address outside the payload is held (`20_memory.md` R28). -/
def Memory.below (m : Memory) (n : Nat) : Bool := m.all fun c => decide (c.1 < n)

/-- Stream bit S(i): bit 7 − (i mod 8) of BUF[i / 8] (`20_memory.md` R29, `00_scope.md` R8). -/
def streamBit (m : Memory) (i : Nat) : Bool := (m.read (i / 8)).getLsbD (7 - i % 8)

/-- BitsAt(p, w): w stream bits from p, the first one most significant (`00_scope.md` R10, `20_memory.md` R30). -/
def bitsAt (m : Memory) (p : Nat) : Nat → Nat
  | 0 => 0
  | w + 1 => 2 * bitsAt m p w + (streamBit m (p + w)).toNat

/-- MemRead(a, n): n bytes from a, BUF[a] most significant (`20_memory.md` R31). -/
def memRead (m : Memory) (a : Nat) : Nat → Nat
  | 0 => 0
  | n + 1 => 2 ^ 8 * memRead m a n + (m.read (a + n)).toNat

/-! ### The BitCursor (`40_bitcursor.md`) -/

/-- len(bits) = 8·LEN (R63). -/
abbrev State.streamLen (s : State) : Nat := 8 * s.len.toNat

/-- READ(w) at position p: the value and the new position, or nothing on underrun. The bound is checked first, in exact
arithmetic (R63, R64, R67). -/
def readAt (s : State) (p w : Nat) : Option (Nat × Nat) :=
  if p + w > s.streamLen then none else some (bitsAt s.buf p w, p + w)

/-- SKIP(w) at position p: the new position, or nothing on underrun (R66). -/
def skipAt (s : State) (p w : Nat) : Option Nat :=
  if p + w > s.streamLen then none else some (p + w)

/-- READs of the widths `ws` one after another from position p (R69): the values in order and the last position. -/
def readFields (s : State) (p : Nat) : List Nat → Option (List Nat × Nat)
  | [] => some ([], p)
  | w :: ws =>
    match readAt s p w with
    | none => none
    | some (v, p') =>
      match readFields s p' ws with
      | none => none
      | some (vs, p'') => some (v :: vs, p'')

/-- The common part of the decoders: the whole span is checked before any field is read (`41_headers.md` R70,
`42_perhop.md` R80); then the fields are read from POS. -/
def decodeSpan (s : State) (span : Nat) (ws : List Nat) : Option (List Nat × Nat) :=
  if s.pos.toNat + span > s.streamLen then none else readFields s s.pos.toNat ws

/-- POS <- p. Only positions that passed the bound check are stored, and those fit POS's 19 bits (R67, log 19). -/
def State.setPos (s : State) (p : Nat) : State := { s with pos := BitVec.ofNat 19 p }

/-- state <- X (`00_scope.md` R10). -/
def State.goto (s : State) (c : BitVec 4) : State := { s with seq := c }

/-! ### Ends of a job (`60_exceptions.md`) -/

/-- raise BufferUnderrun(stage): RESULT, ERR_STAGE and STATE, and nothing else (R102, R108). -/
def State.raiseUnderrun (s : State) (stage : BitVec 4) : State :=
  { s with result := ResultCode.underrun, errStage := stage, seq := Stage.underrun }

/-- SinkWriteFailure: RESULT, ERR_STAGE and STATE; HOP_IDX and POS stay (R104, R108). -/
def State.raiseSinkFailure (s : State) : State :=
  { s with result := ResultCode.fatal, errStage := Stage.route, seq := Stage.fatal }

/-- The end of a job without error: RESULT 1 and DONE (`44_pipeline.md` R91). -/
def State.finishJob (s : State) : State :=
  { s with result := ResultCode.done, seq := Stage.done }

/-- The reset action: every piece of core state to its reset value, the logs as they are, a held SUBMIT discarded
(`70_reset_and_hazards.md` R118, R119). There is no other return from FATAL (`60_exceptions.md` R109). -/
def State.resetCore (s : State) : State :=
  { State.reset with
    sinkLog := s.sinkLog, traceLog := s.traceLog, env := { s.env with held := none, byteChannel := [] } }

/-! ### The output ports and the answers -/

/-- emit Trace(e) when the job's TRACE is 1 (`43_demux.md` R90). -/
def State.trace (s : State) (e : TraceEvent) : State :=
  { s with traceLog := if s.job.trace = 1#1 then s.traceLog ++ [e] else s.traceLog }

/-- The sink's answer to the next sink event: the first one the state lists, else the free value (R88, log 3). -/
def State.sinkReply (s : State) : SinkAnswer :=
  match s.env.sinkAnswers with
  | a :: _ => a
  | [] => Config.sinkAnswer s.env.freeSeq

/-- The environment after the sink has answered once. -/
def Env.takeSinkReply (e : Env) : Env :=
  match e.sinkAnswers with
  | _ :: rest => { e with sinkAnswers := rest }
  | [] => { e with freeSeq := e.freeSeq + 1 }

/-- emit Sink(k, v), answered in the same step: the event enters SINK_LOG with its answer (R88, R89). -/
def State.emitSink (s : State) (k : SinkId) (v : BitVec 32) : State :=
  { s with sinkLog := s.sinkLog ++ [⟨k, v, s.sinkReply⟩], env := s.env.takeSinkReply }

/-- The core answers the host, or the requester at the BitCursor's port. -/
def State.answer (s : State) (a : Answer) : State :=
  { s with env := { s.env with answers := s.env.answers ++ [a] } }

/-- refuse(reason): no state of the core changes, and the run is marked (`60_exceptions.md` R105, log 7). -/
def State.refuse (s : State) (r : CmdRefusal) : State :=
  { s with env := { s.env with refusals := s.env.refusals ++ [r] } }

end Sys2Proof.Machine
end

