-- ==== Sys2Proof/Machine/Cursor.lean ====
section
/-! DEFINITION. READ and SKIP as operations of their own (`40_bitcursor.md` R64, R66). -/

namespace Sys2Proof.Machine

/-- READ w (R64): the bound check, the value, POS. A width over W_READ_MAX is an illegal request (`30_encoding.md` R59,
`60_exceptions.md` R106). The value is returned to the requester (log 11); the stage of an underrun is STATE (R64). -/
def execRead (w : Nat) (s : State) : Host.Outcome State Fault Refusal :=
  if w ≤ Config.wReadMax then
    match readAt s s.pos.toNat w with
    | none => .next (s.raiseUnderrun s.seq)
    | some (v, p) => .next ((s.setPos p).answer (.readValue w (BitVec.ofNat 48 v)))
  else .fault .illegalCursorRequest

/-- SKIP w (R66): the bound check and POS; nothing is read or kept. A width over W_SKIP_MAX has no request word (R55). -/
def execSkip (w : Nat) (s : State) : Host.Outcome State Fault Refusal :=
  if w ≤ Config.wSkipMax then
    match skipAt s s.pos.toNat w with
    | none => .next (s.raiseUnderrun s.seq)
    | some p => .next (s.setPos p)
  else .fault .illegalCursorRequest

end Sys2Proof.Machine
end

