-- ==== Sys2Proof/Machine/Flags.lean ====
section
/-! DEFINITION. What is computed from the status registers: busy, ready and reserved STATE (`10_state.md` R15), CFG_READY, and the words of the host's register map (R23). The flags RESULT and ERR_STAGE (R21) are written by the operations of Ops.lean. -/

namespace Sys2Proof.Machine

/-- STATE is busy: 0x1 to 0x8 (R15). -/
def State.busy (s : State) : Bool := decide (1 ≤ s.seq.toNat) && decide (s.seq.toNat ≤ 8)

/-- STATE is ready: IDLE, DONE or UNDERRUN. Only then does the core take a SUBMIT (R15). -/
def State.ready (s : State) : Bool :=
  decide (s.seq = Stage.idle) || decide (s.seq = Stage.done) || decide (s.seq = Stage.underrun)

/-- STATE holds a reserved code, 0xC to 0xF: a state that no run reaches and that is a fault (R15). -/
def State.reserved (s : State) : Bool := decide (12 ≤ s.seq.toNat)

/-- CFG_READY: all four configuration registers are written (R23). -/
def State.cfgReady (s : State) : Bool := s.cfg.wKind && s.cfg.wFph && s.cfg.wNt && s.cfg.wTrace

/-- STATUS: [3:0] STATE, [5:4] RESULT, [9:6] ERR_STAGE, [17:10] HOP_IDX, [18] CFG_READY, [31:19] read 0 (R23). -/
def State.statusWord (s : State) : Word :=
  0#13 ++ BitVec.ofBool s.cfgReady ++ s.hopIdx ++ s.errStage ++ s.result ++ s.seq

/-- POSITION: [18:0] POS, [31:19] read 0 (R23). -/
def State.positionWord (s : State) : Word := 0#13 ++ s.pos

/-- LENGTH: [15:0] LEN, [31:16] read 0 (R23). -/
def State.lengthWord (s : State) : Word := 0#16 ++ s.len

end Sys2Proof.Machine
end

