-- ==== Sys2Proof/Machine/Layouts.lean ====
section
/-! DEFINITION. The payload formats of `30_encoding.md` R47 to R53: spans, field widths in table order, how the values read become a header register, and the bit string of a header on RDHDR's port (`44_pipeline.md` R97). -/

namespace Sys2Proof.Machine

/-- Field k of the values a decoder has read, as an unsigned integer of width w (`30_encoding.md` R54). -/
def fieldOf (w : Nat) (vs : List Nat) (k : Nat) : BitVec w := BitVec.ofNat w (vs.getD k 0)

/-- The bits of a value, most significant first. -/
def bitsOf {w : Nat} (x : BitVec w) : List Bool := (List.range w).map fun j => x.getLsbD (w - 1 - j)

/-! ### Spans in bits (`30_encoding.md` R46) -/

def reportSpan : Nat := 128
def ethSpan : Nat := 112
def ipv4Span : Nat := 160
def udpSpan : Nat := 64
def shimSpan : Nat := 32
def intmetaSpan : Nat := 64

/-- The stride of one per-hop record, 32·FPH bits (`42_perhop.md` R79). -/
abbrev State.hopStride (s : State) : Nat := 32 * s.job.fph.toNat

/-! ### Field widths in table order -/

/-- R47. -/
def reportWidths : List Nat := [4, 4, 3, 6, 6, 1, 1, 1, 6, 32, 32, 32]
/-- R48. -/
def ethWidths : List Nat := [48, 48, 16]
/-- R49. -/
def ipv4Widths : List Nat := [4, 4, 6, 2, 16, 16, 3, 13, 8, 8, 16, 32, 32]
/-- R50. -/
def udpWidths : List Nat := [16, 16, 16, 16]
/-- R51. -/
def shimWidths : List Nat := [8, 8, 8, 6, 2]
/-- R52. -/
def intmetaWidths : List Nat := [4, 2, 1, 1, 1, 7, 3, 5, 8, 4, 4, 4, 4, 16]
/-- R53. -/
def hopWidths : List Nat := [32, 16, 16, 32, 8, 24, 32, 32, 16, 16, 32]

/-! ### Header registers from the values read -/

/-- R47. -/
def ReportHdr.ofFields (vs : List Nat) : ReportHdr :=
  { ver := fieldOf 4 vs 0, len := fieldOf 4 vs 1, nproto := fieldOf 3 vs 2, rep_md_bits := fieldOf 6 vs 3,
    rsvd := fieldOf 6 vs 4, d := fieldOf 1 vs 5, q := fieldOf 1 vs 6, f := fieldOf 1 vs 7, hw_id := fieldOf 6 vs 8,
    sw_id := fieldOf 32 vs 9, seq_no := fieldOf 32 vs 10, ingress_tstamp := fieldOf 32 vs 11 }

/-- R48. -/
def EthHdr.ofFields (vs : List Nat) : EthHdr :=
  { dst_addr := fieldOf 48 vs 0, src_addr := fieldOf 48 vs 1, etherType := fieldOf 16 vs 2 }

/-- R49. -/
def Ipv4Hdr.ofFields (vs : List Nat) : Ipv4Hdr :=
  { version := fieldOf 4 vs 0, ihl := fieldOf 4 vs 1, dscp := fieldOf 6 vs 2, ecn := fieldOf 2 vs 3,
    length := fieldOf 16 vs 4, identification := fieldOf 16 vs 5, flags := fieldOf 3 vs 6,
    frag_offset := fieldOf 13 vs 7, ttl := fieldOf 8 vs 8, protocol := fieldOf 8 vs 9,
    hdr_checksum := fieldOf 16 vs 10, src_addr := fieldOf 32 vs 11, dst_addr := fieldOf 32 vs 12 }

/-- R50. -/
def UdpHdr.ofFields (vs : List Nat) : UdpHdr :=
  { src_port := fieldOf 16 vs 0, dst_port := fieldOf 16 vs 1, length := fieldOf 16 vs 2, checksum := fieldOf 16 vs 3 }

/-- R51. -/
def ShimHdr.ofFields (vs : List Nat) : ShimHdr :=
  { int_type := fieldOf 8 vs 0, rsvd1 := fieldOf 8 vs 1, len := fieldOf 8 vs 2, dscp := fieldOf 6 vs 3,
    rsvd2 := fieldOf 2 vs 4 }

/-- R52. -/
def IntmetaHdr.ofFields (vs : List Nat) : IntmetaHdr :=
  { ver := fieldOf 4 vs 0, rep := fieldOf 2 vs 1, c := fieldOf 1 vs 2, e := fieldOf 1 vs 3, m := fieldOf 1 vs 4,
    rsvd1 := fieldOf 7 vs 5, rsvd2 := fieldOf 3 vs 6, hop_metadata_len := fieldOf 5 vs 7,
    remaining_hop_cnt := fieldOf 8 vs 8, instruction_mask_0003 := fieldOf 4 vs 9,
    instruction_mask_0407 := fieldOf 4 vs 10, instruction_mask_0811 := fieldOf 4 vs 11,
    instruction_mask_1215 := fieldOf 4 vs 12, rsvd3 := fieldOf 16 vs 13 }

/-- R53. -/
def HopRecord.ofFields (vs : List Nat) : HopRecord :=
  { switch_id := fieldOf 32 vs 0, ingress_port := fieldOf 16 vs 1, egress_port := fieldOf 16 vs 2,
    hop_latency := fieldOf 32 vs 3, q_id := fieldOf 8 vs 4, q_occupancy := fieldOf 24 vs 5,
    ingress_tstamp := fieldOf 32 vs 6, egress_tstamp := fieldOf 32 vs 7, ingress_port_2 := fieldOf 16 vs 8,
    egress_port_2 := fieldOf 16 vs 9, egress_port_tx_util := fieldOf 32 vs 10 }

/-! ### The bit string of a header on RDHDR's port: the fields in table order, each most significant bit first (R97, log 16) -/

def ReportHdr.bits (h : ReportHdr) : List Bool :=
  bitsOf h.ver ++ bitsOf h.len ++ bitsOf h.nproto ++ bitsOf h.rep_md_bits ++ bitsOf h.rsvd ++ bitsOf h.d ++ bitsOf h.q
    ++ bitsOf h.f ++ bitsOf h.hw_id ++ bitsOf h.sw_id ++ bitsOf h.seq_no ++ bitsOf h.ingress_tstamp

def EthHdr.bits (h : EthHdr) : List Bool := bitsOf h.dst_addr ++ bitsOf h.src_addr ++ bitsOf h.etherType

def Ipv4Hdr.bits (h : Ipv4Hdr) : List Bool :=
  bitsOf h.version ++ bitsOf h.ihl ++ bitsOf h.dscp ++ bitsOf h.ecn ++ bitsOf h.length ++ bitsOf h.identification
    ++ bitsOf h.flags ++ bitsOf h.frag_offset ++ bitsOf h.ttl ++ bitsOf h.protocol ++ bitsOf h.hdr_checksum
    ++ bitsOf h.src_addr ++ bitsOf h.dst_addr

def UdpHdr.bits (h : UdpHdr) : List Bool :=
  bitsOf h.src_port ++ bitsOf h.dst_port ++ bitsOf h.length ++ bitsOf h.checksum

def ShimHdr.bits (h : ShimHdr) : List Bool :=
  bitsOf h.int_type ++ bitsOf h.rsvd1 ++ bitsOf h.len ++ bitsOf h.dscp ++ bitsOf h.rsvd2

def IntmetaHdr.bits (h : IntmetaHdr) : List Bool :=
  bitsOf h.ver ++ bitsOf h.rep ++ bitsOf h.c ++ bitsOf h.e ++ bitsOf h.m ++ bitsOf h.rsvd1 ++ bitsOf h.rsvd2
    ++ bitsOf h.hop_metadata_len ++ bitsOf h.remaining_hop_cnt ++ bitsOf h.instruction_mask_0003
    ++ bitsOf h.instruction_mask_0407 ++ bitsOf h.instruction_mask_0811 ++ bitsOf h.instruction_mask_1215
    ++ bitsOf h.rsvd3

def HopRecord.bits (r : HopRecord) : List Bool :=
  bitsOf r.switch_id ++ bitsOf r.ingress_port ++ bitsOf r.egress_port ++ bitsOf r.hop_latency ++ bitsOf r.q_id
    ++ bitsOf r.q_occupancy ++ bitsOf r.ingress_tstamp ++ bitsOf r.egress_tstamp ++ bitsOf r.ingress_port_2
    ++ bitsOf r.egress_port_2 ++ bitsOf r.egress_port_tx_util

def HdrValue.bits : HdrValue → List Bool
  | .report h => h.bits
  | .eth h => h.bits
  | .ipv4 h => h.bits
  | .udp h => h.bits
  | .shim h => h.bits
  | .intmeta h => h.bits
  | .hop r => r.bits

/-- The bit string of an answer on its port: RDREG's word, RDHDR's valid bit followed by the fields (`30_encoding.md` R56,
R97), the w bits of a READ's value. -/
def Answer.portBits : Answer → List Bool
  | .regWord v => bitsOf v
  | .header none => [false]
  | .header (some v) => true :: v.bits
  | .readValue w v => bitsOf (BitVec.ofNat w v.toNat)

end Sys2Proof.Machine
end

