-- ==== Sys2Proof/Machine/Operands.lean ====
section
/-! DEFINITION. The operand forms of the host commands and of ROUTE: what a register index reads and writes (`10_state.md` R23, R24), what a header selector reads (`44_pipeline.md` R97), where a switch id routes and which value is the sample (`43_demux.md` R84, R85). -/

namespace Sys2Proof.Machine

/-- RDREG's operand: the 32-bit word of a register, or why the read is refused (R24, `44_pipeline.md` R96). -/
def readReg (s : State) : RegSel → Except CmdRefusal Word
  | .metricKind => if s.cfg.wKind then .ok (0#31 ++ s.cfg.kind) else .error .configUnwritten
  | .fieldsPerHop => if s.cfg.wFph then .ok (0#24 ++ s.cfg.fph) else .error .configUnwritten
  | .numTransits => if s.cfg.wNt then .ok (0#24 ++ s.cfg.nt) else .error .configUnwritten
  | .diagTrace => if s.cfg.wTrace then .ok (0#31 ++ s.cfg.trace) else .error .configUnwritten
  | .status => .ok s.statusWord
  | .position => .ok s.positionWord
  | .length => .ok s.lengthWord
  | .reserved _ => .error .badRegister

/-- CFGW's operand: the configuration after the write, or why the write is refused (R24, `44_pipeline.md` R95). -/
def writeReg (c : CfgRegs) (x : BitVec 16) : RegSel → Except CmdRefusal CfgRegs
  | .metricKind =>
    if x.toNat < 2 ^ 1 then .ok { c with kind := x.setWidth 1, wKind := true } else .error .reservedBitSet
  | .fieldsPerHop =>
    if x.toNat < 2 ^ 8 then .ok { c with fph := x.setWidth 8, wFph := true } else .error .reservedBitSet
  | .numTransits =>
    if x.toNat < 2 ^ 8 then .ok { c with nt := x.setWidth 8, wNt := true } else .error .reservedBitSet
  | .diagTrace =>
    if x.toNat < 2 ^ 1 then .ok { c with trace := x.setWidth 1, wTrace := true } else .error .reservedBitSet
  | .status => .error .badRegister
  | .position => .error .badRegister
  | .length => .error .badRegister
  | .reserved _ => .error .badRegister

/-- RDHDR's operand: nothing when the valid bit is 0, else every field (`44_pipeline.md` R97). -/
def readHdr (s : State) : HdrSel → Except CmdRefusal (Option HdrValue)
  | .report => .ok (if s.hdr.vReport then some (.report s.hdr.report) else none)
  | .eth => .ok (if s.hdr.vEth then some (.eth s.hdr.eth) else none)
  | .ipv4 => .ok (if s.hdr.vIpv4 then some (.ipv4 s.hdr.ipv4) else none)
  | .udp => .ok (if s.hdr.vUdp then some (.udp s.hdr.udp) else none)
  | .shim => .ok (if s.hdr.vShim then some (.shim s.hdr.shim) else none)
  | .intmeta => .ok (if s.hdr.vIntmeta then some (.intmeta s.hdr.intmeta) else none)
  | .hop => .ok (if s.hdr.vHop then some (.hop s.hdr.hop) else none)
  | .reserved _ => .error .badHeader

/-- The routing map: all 32 bits compared, no entry is the drop path (`43_demux.md` R84). -/
def sinkOf (switchId : BitVec 32) : Option SinkId :=
  if switchId = 1#32 then some .sink1
  else if switchId = 2#32 then some .sink2
  else if switchId = 3#32 then some .sink3
  else if switchId = 4#32 then some .sink4
  else none

/-- The switch id that owns a sink (`43_demux.md` R84). -/
def SinkId.switchId : SinkId → BitVec 32
  | .sink1 => 1#32
  | .sink2 => 2#32
  | .sink3 => 3#32
  | .sink4 => 4#32

/-- The sink's code on the port: s − 1 in 2 bits (`43_demux.md` R89). -/
def SinkId.portCode : SinkId → BitVec 2
  | .sink1 => 0#2
  | .sink2 => 1#2
  | .sink3 => 2#2
  | .sink4 => 3#2

/-- The sample value the job's KIND selects (`43_demux.md` R85). -/
def sampleValue (kind : BitVec 1) (r : HopRecord) : BitVec 32 :=
  if kind = 0#1 then r.hop_latency else r.q_occupancy.setWidth 32

end Sys2Proof.Machine
end

