-- ==== Sys2Proof/Machine/Demux.lean ====
section
/-! DEFINITION. The switch demultiplexer (`43_demux.md` R86). -/

namespace Sys2Proof.Machine

/-- HOP_IDX <- HOP_IDX + 1, then DONE after the last record, else the next record (R86). The comparison is exact; HOP_IDX
never wraps in a state a run reaches (`10_state.md` R20, log 19). -/
def State.advanceHop (s : State) : State :=
  let n := s.hopIdx.toNat + 1
  let t := { s with hopIdx := BitVec.ofNat 8 n }
  if n = s.job.nt.toNat then t.finishJob else t.goto Stage.hop

/-- ROUTE (R86): a record of no sink is dropped with no event; a sink's `fail` ends the job as FATAL with HOP_IDX kept. -/
def execRoute (s : State) : Host.Outcome State Fault Refusal :=
  match sinkOf s.hdr.hop.switch_id with
  | none => .next s.advanceHop
  | some k =>
    let t := s.emitSink k (sampleValue s.job.kind s.hdr.hop)
    match s.sinkReply with
    | .fail => .next t.raiseSinkFailure
    | .ok => .next t.advanceHop

end Sys2Proof.Machine
end

