-- ==== Sys2Proof/Machine/Headers.lean ====
section
/-! DEFINITION. The six header decoders (`41_headers.md` R70, R73 to R78): the span check, the fields, POS, the valid bit, the trace event, the successor. -/

namespace Sys2Proof.Machine

/-- HDR_REPORT <- h; V_REPORT <- 1. -/
def State.setReport (s : State) (h : ReportHdr) : State := { s with hdr := { s.hdr with report := h, vReport := true } }

/-- HDR_ETH <- h; V_ETH <- 1. -/
def State.setEth (s : State) (h : EthHdr) : State := { s with hdr := { s.hdr with eth := h, vEth := true } }

/-- HDR_IPV4 <- h; V_IPV4 <- 1. -/
def State.setIpv4 (s : State) (h : Ipv4Hdr) : State := { s with hdr := { s.hdr with ipv4 := h, vIpv4 := true } }

/-- HDR_UDP <- h; V_UDP <- 1. -/
def State.setUdp (s : State) (h : UdpHdr) : State := { s with hdr := { s.hdr with udp := h, vUdp := true } }

/-- HDR_SHIM <- h; V_SHIM <- 1. -/
def State.setShim (s : State) (h : ShimHdr) : State := { s with hdr := { s.hdr with shim := h, vShim := true } }

/-- HDR_INTMETA <- h; V_INTMETA <- 1. -/
def State.setIntmeta (s : State) (h : IntmetaHdr) : State :=
  { s with hdr := { s.hdr with intmeta := h, vIntmeta := true } }

/-- DEC_REPORT (R73). -/
def execDecReport (s : State) : Host.Outcome State Fault Refusal :=
  match decodeSpan s reportSpan reportWidths with
  | none => .next (s.raiseUnderrun Stage.report)
  | some (vs, p) =>
    let h := ReportHdr.ofFields vs
    .next ((((s.setReport h).setPos p).trace (.report h)).goto Stage.eth)

/-- DEC_ETH (R74). -/
def execDecEth (s : State) : Host.Outcome State Fault Refusal :=
  match decodeSpan s ethSpan ethWidths with
  | none => .next (s.raiseUnderrun Stage.eth)
  | some (vs, p) =>
    let h := EthHdr.ofFields vs
    .next ((((s.setEth h).setPos p).trace (.eth h)).goto Stage.ipv4)

/-- DEC_IPV4 (R75). -/
def execDecIpv4 (s : State) : Host.Outcome State Fault Refusal :=
  match decodeSpan s ipv4Span ipv4Widths with
  | none => .next (s.raiseUnderrun Stage.ipv4)
  | some (vs, p) =>
    let h := Ipv4Hdr.ofFields vs
    .next ((((s.setIpv4 h).setPos p).trace (.ipv4 h)).goto Stage.udp)

/-- DEC_UDP (R76). -/
def execDecUdp (s : State) : Host.Outcome State Fault Refusal :=
  match decodeSpan s udpSpan udpWidths with
  | none => .next (s.raiseUnderrun Stage.udp)
  | some (vs, p) =>
    let h := UdpHdr.ofFields vs
    .next ((((s.setUdp h).setPos p).trace (.udp h)).goto Stage.shim)

/-- DEC_SHIM (R77). -/
def execDecShim (s : State) : Host.Outcome State Fault Refusal :=
  match decodeSpan s shimSpan shimWidths with
  | none => .next (s.raiseUnderrun Stage.shim)
  | some (vs, p) =>
    let h := ShimHdr.ofFields vs
    .next ((((s.setShim h).setPos p).trace (.shim h)).goto Stage.intmeta)

/-- DEC_INTMETA (R78): the job is done right here when NT is 0. -/
def execDecIntmeta (s : State) : Host.Outcome State Fault Refusal :=
  match decodeSpan s intmetaSpan intmetaWidths with
  | none => .next (s.raiseUnderrun Stage.intmeta)
  | some (vs, p) =>
    let h := IntmetaHdr.ofFields vs
    let t := ((s.setIntmeta h).setPos p).trace (.intmeta h)
    .next (if s.job.nt = 0#8 then t.finishJob else t.goto Stage.hop)

end Sys2Proof.Machine
end

