-- ==== Sys2Proof/Machine/HostCommands.lean ====
section
/-! DEFINITION. The host commands (`44_pipeline.md` R94 to R97). A refused command is a next state in which the core is unchanged and the run is marked (`60_exceptions.md` R105, log 7). -/

namespace Sys2Proof.Machine

/-- The valid bits <- 0; the field values stay where they are, unobservable (`10_state.md` R22, log 13). -/
def HdrRegs.invalidate (h : HdrRegs) : HdrRegs :=
  { h with
    vReport := false, vEth := false, vIpv4 := false, vUdp := false, vShim := false, vIntmeta := false, vHop := false }

/-- The configuration SUBMIT latches (`10_state.md` R19). -/
def CfgRegs.latch (c : CfgRegs) : JobRegs := { kind := c.kind, fph := c.fph, nt := c.nt, trace := c.trace }

/-- What a SUBMIT that is taken writes (R94). -/
def State.startJob (s : State) (len : Nat) (bytes : List Byte) : State :=
  { s with
    buf := Memory.load bytes, len := BitVec.ofNat 16 len, job := s.cfg.latch,
    pos := 0, hopIdx := 0, result := ResultCode.none, errStage := 0, hdr := s.hdr.invalidate,
    seq := Stage.report, env := { s.env with byteChannel := [] } }

/-- SUBMIT (R94), its checks in the order of R107: busy holds it with its bytes (log 8); then the refusals. A STATE that is
neither busy nor FATAL nor ready is a reserved code: R94's pseudocode does not name it, R15 makes it a fault (log 12). The
channel carries at least `len` bytes or the command is refused (R100, log 9). -/
def execSubmit (len : Nat) (s : State) : Host.Outcome State Fault Refusal :=
  if s.busy then
    .next { s with env := { s.env with held := some ⟨len, s.env.byteChannel⟩, byteChannel := [] } }
  else if s.seq = Stage.fatal then .next (s.refuse .submitAfterFatal)
  else if !s.ready then .fault .reservedState
  else if !s.cfgReady then .next (s.refuse .configUnwritten)
  else if s.cfg.fph.toNat < Config.fphMin then .next (s.refuse .fieldsPerHopTooSmall)
  else if len > Config.bufLenMax then .next (s.refuse .payloadTooLong)
  else if s.env.byteChannel.length < len then .next (s.refuse .shortByteChannel)
  else .next (s.startJob len (s.env.byteChannel.take len))

/-- CFGW (R95): taken in every STATE; never touches JOB_*. -/
def execCfgw (r : RegSel) (x : BitVec 16) (s : State) : Host.Outcome State Fault Refusal :=
  match writeReg s.cfg x r with
  | .error e => .next (s.refuse e)
  | .ok c => .next { s with cfg := c }

/-- RDREG (R96): taken in every STATE. -/
def execRdreg (r : RegSel) (s : State) : Host.Outcome State Fault Refusal :=
  match readReg s r with
  | .error e => .next (s.refuse e)
  | .ok v => .next (s.answer (.regWord v))

/-- RDHDR (R97): taken in every STATE. -/
def execRdhdr (h : HdrSel) (s : State) : Host.Outcome State Fault Refusal :=
  match readHdr s h with
  | .error e => .next (s.refuse e)
  | .ok v => .next (s.answer (.header v))

end Sys2Proof.Machine
end

