-- ==== Sys2Proof/Machine/PerHop.lean ====
section
/-! DEFINITION. The per-hop record decoder (`42_perhop.md` R79, R80). -/

namespace Sys2Proof.Machine

/-- HDR_HOP <- r; V_HOP <- 1. -/
def State.setHop (s : State) (r : HopRecord) : State := { s with hdr := { s.hdr with hop := r, vHop := true } }

/-- The fields of one record and the position after its stride: the stride check, the eleven READs, then
SKIP(32·FPH − 256) (R80). `some none` is a stride shorter than the fields, whose skip width no request holds; SUBMIT
refuses every such FPH (R79, log 12). -/
def decodeRecord (s : State) : Option (Option (List Nat × Nat)) :=
  match decodeSpan s s.hopStride hopWidths with
  | none => none
  | some (vs, p) =>
    if s.hopStride < Config.hopFieldBits then some none
    else
      match skipAt s p (s.hopStride - Config.hopFieldBits) with
      | none => none
      | some p' => some (some (vs, p'))

/-- DEC_HOP (R80): record HOP_IDX. -/
def execDecHop (s : State) : Host.Outcome State Fault Refusal :=
  match decodeRecord s with
  | none => .next (s.raiseUnderrun Stage.hop)
  | some none => .fault .illegalCursorRequest
  | some (some (vs, p)) =>
    let r := HopRecord.ofFields vs
    .next ((((s.setHop r).setPos p).trace (.hop s.hopIdx r)).goto Stage.route)

end Sys2Proof.Machine
end

