-- ==== Sys2Proof/Machine/Dispatch.lean ====
section
/-! DEFINITION. One arm per operation, each one call of its meaning. -/

namespace Sys2Proof.Machine

def exec (i : Instr) (s : State) : Host.Outcome State Fault Refusal :=
  match i with
  | .read w => Sys2Proof.Machine.execRead w s
  | .skip w => Sys2Proof.Machine.execSkip w s
  | .decReport => Sys2Proof.Machine.execDecReport s
  | .decEth => Sys2Proof.Machine.execDecEth s
  | .decIpv4 => Sys2Proof.Machine.execDecIpv4 s
  | .decUdp => Sys2Proof.Machine.execDecUdp s
  | .decShim => Sys2Proof.Machine.execDecShim s
  | .decIntmeta => Sys2Proof.Machine.execDecIntmeta s
  | .decHop => Sys2Proof.Machine.execDecHop s
  | .route => Sys2Proof.Machine.execRoute s
  | .cfgw r x => Sys2Proof.Machine.execCfgw r x s
  | .rdreg r => Sys2Proof.Machine.execRdreg r s
  | .submit len => Sys2Proof.Machine.execSubmit len s
  | .rdhdr h => Sys2Proof.Machine.execRdhdr h s

end Sys2Proof.Machine
end

