-- ==== Sys2Proof/Machine/Agents.lean ====
section
/-! DEFINITION. The atomic step of each agent (`00_scope.md` R6): the core, the host's command, a held SUBMIT, a direct cursor request, reset; and how the bits of an opcode-table row are placed where the next step takes them. -/

namespace Sys2Proof.Machine

/-- The core's step (`44_pipeline.md` R92): the operation STATE selects; no step in IDLE, DONE, UNDERRUN and FATAL, where the
state stays as it is (log 2); a fault in a reserved STATE (`60_exceptions.md` R106). -/
def coreStep (s : State) : Host.Outcome State Fault Refusal :=
  match decodeSequencer s.seq with
  | .ok i => exec i s
  | .error .noOperation => .next s
  | .error _ => .fault .reservedState

/-- The host's step: one command word with its bytes. An illegal word is refused (`30_encoding.md` R59, R107 item 4). -/
def commandStep (w : Word) (bytes : List Byte) (s : State) : Host.Outcome State Fault Refusal :=
  let t := { s with env := { s.env with byteChannel := bytes } }
  match decodeHost w with
  | .ok i => exec i t
  | .error _ => .next (t.refuse .illegalWord)

/-- A SUBMIT that was held is taken, as if it came now (`44_pipeline.md` R94, log 8). -/
def heldStep (h : HeldSubmit) (s : State) : Host.Outcome State Fault Refusal :=
  exec (.submit h.len) { s with env := { s.env with held := none, byteChannel := h.bytes } }

/-- A request at the BitCursor's port; an illegal one is a fault (`30_encoding.md` R59, `60_exceptions.md` R106, log 10). -/
def cursorStep (q : BitVec 16) (s : State) : Host.Outcome State Fault Refusal :=
  match decodeCursor q with
  | .ok i => exec i s
  | .error _ => .fault .illegalCursorRequest

/-- The script with its first event taken. -/
def State.withScript (s : State) (rest : List ScriptEvent) : State :=
  { s with env := { s.env with script := rest } }

/-- One action of one agent (log 1). Reset comes before everything (R107 item 1). A held SUBMIT is taken as soon as
the core is not busy, and until then the host's next command waits and the core goes on (R94, R105, log 8). With no event
left the core goes on by itself. -/
def agentStep (s : State) : Host.Outcome State Fault Refusal :=
  match s.env.script, s.env.held with
  | .resetInput :: rest, _ => .next (s.withScript rest).resetCore
  | .coreTurn :: rest, none => coreStep (s.withScript rest)
  | .cursorRequest q :: rest, none => cursorStep q (s.withScript rest)
  | .command w bytes :: rest, none => commandStep w bytes (s.withScript rest)
  | [], none => coreStep s
  | .coreTurn :: rest, some h => if s.busy then coreStep (s.withScript rest) else heldStep h s
  | .cursorRequest q :: rest, some h => if s.busy then cursorStep q (s.withScript rest) else heldStep h s
  | .command _ _ :: _, some h => if s.busy then coreStep s else heldStep h s
  | [], some h => if s.busy then coreStep s else heldStep h s

/-- Reset is the next input. -/
def State.resetNext (s : State) : Bool :=
  match s.env.script with
  | .resetInput :: _ => true
  | _ => false

/-- One action of the whole machine. A reserved STATE is a fault whichever agent would act, and the machine does not step
on (`10_state.md` R15, `60_exceptions.md` R106); only reset is still taken, from any STATE (`44_pipeline.md` R91, R107
item 1, log 12). -/
def machineStep (s : State) : Host.Outcome State Fault Refusal :=
  if s.reserved && !s.resetNext then .fault .reservedState else agentStep s

/-- The bytes that a placed host word needs on the byte channel: a SUBMIT's LEN bytes, all zero. -/
def placedBytes (w : Word) : List Byte :=
  match decodeHost w with
  | .ok (.submit len) => List.replicate len 0#8
  | _ => []

/-- Place a code word so that the next step runs it (log 14): a sequencer code in STATE with the core's turn next, a host
word as the next command, a request at the BitCursor's port. -/
def State.placeCode (s : State) : CodeWord → State
  | .sequencer c =>
    { s with seq := c, env := { s.env with held := none, script := .coreTurn :: s.env.script } }
  | .host w =>
    { s with env := { s.env with held := none, script := .command w (placedBytes w) :: s.env.script } }
  | .cursor q => { s with env := { s.env with held := none, script := .cursorRequest q :: s.env.script } }

end Sys2Proof.Machine
end

