-- ==== Sys2Proof/Machine/Step.lean ====
section
/-! DEFINITION. The machine's one step, and the placing of an opcode-table word where the step takes its next operation. -/

namespace Sys2Proof.Machine

/-- One step of the machine: Agents.lean's `machineStep`. -/
def step (s : State) : Host.Outcome State Fault Refusal := machineStep s

/-- `s` with the opcode-table word placed so that the very next step runs it (log 14); unchanged when the word has bits
above its row's format. -/
def State.withFetchWord (s : State) (nbits w : Nat) : State :=
  match tableWord nbits w with
  | .ok c => s.placeCode c
  | .error _ => s

end Sys2Proof.Machine
end

