-- ==== Sys2Proof/Machine/Asm.lean ====
section
/-! DEFINITION. The text form of host programs and cursor operations (`30_encoding.md` R61) and the pseudo-instructions CONFIG and RUN (R62): a program's text becomes the script of what comes from outside. The choices the spec leaves are in log 20. -/

namespace Sys2Proof.Machine

/-- One line of a program: the seven forms of R61 and the two of R62. -/
inductive AsmLine where
  | cfgw (r : RegSel) (x : Nat)
  | rdreg (r : RegSel)
  | submit (len : Nat) (bytes : List Byte)
  | rdhdr (h : HdrSel)
  | read (w : Nat)
  | skip (w : Nat)
  | resetLine
  | config (kind fph nt trace : Nat)
  | run
deriving DecidableEq, Repr

/-- The word of a host command with the bytes that follow it; nothing when the operation has no code word. -/
def hostEvent (i : Instr) (bytes : List Byte) : Option (List ScriptEvent) :=
  if i.WellFormed then
    match encode i with
    | .host w => some [.command w bytes]
    | .cursor _ => none
    | .sequencer _ => none
  else none

/-- The request of a cursor operation; nothing when the operation has no code word. -/
def cursorEvent (i : Instr) : Option (List ScriptEvent) :=
  if i.WellFormed then
    match encode i with
    | .cursor q => some [.cursorRequest q]
    | .host _ => none
    | .sequencer _ => none
  else none

/-- CFGW r, x: x must fit IMM's 16 bits. -/
def cfgwEvent (r : RegSel) (x : Nat) : Option (List ScriptEvent) :=
  if x < 2 ^ 16 then hostEvent (.cfgw r (BitVec.ofNat 16 x)) [] else none

/-- The most core steps a job takes, 6 + 2·255 (`44_pipeline.md` R93). -/
def jobStepBound : Nat := 6 + 2 * 255

/-- What a line stands for. CONFIG is four CFGW in R62's order. RUN lets the core step until the job is over: the core's
turns of two longest jobs (a running one and the held SUBMIT's after it), since a turn in a terminal state changes nothing
(R62, log 20). -/
def AsmLine.expand : AsmLine → Option (List ScriptEvent)
  | .cfgw r x => cfgwEvent r x
  | .rdreg r => hostEvent (.rdreg r) []
  | .submit len bytes => if bytes.length = len then hostEvent (.submit len) bytes else none
  | .rdhdr h => hostEvent (.rdhdr h) []
  | .read w => cursorEvent (.read w)
  | .skip w => cursorEvent (.skip w)
  | .resetLine => some [.resetInput]
  | .config k f n t =>
    match cfgwEvent .metricKind k, cfgwEvent .fieldsPerHop f, cfgwEvent .numTransits n, cfgwEvent .diagTrace t with
    | some a, some b, some c, some d => some (a ++ b ++ c ++ d)
    | _, _, _, _ => none
  | .run => some (List.replicate (2 * jobStepBound) .coreTurn)

/-! ### Reading the text -/

/-- The value of a hexadecimal digit. -/
def hexDigit (c : Char) : Option Nat :=
  let n := c.toNat
  if 48 ≤ n ∧ n ≤ 57 then some (n - 48)
  else if 65 ≤ n ∧ n ≤ 70 then some (n - 55)
  else if 97 ≤ n ∧ n ≤ 102 then some (n - 87)
  else none

/-- The digits of a number in a base, most significant first. -/
def digitsValue (base acc : Nat) : List Char → Option Nat
  | [] => some acc
  | c :: cs =>
    match hexDigit c with
    | none => none
    | some d => if d < base then digitsValue base (base * acc + d) cs else none

/-- A value: decimal or 0x hexadecimal (R61). Every number of a line is read so, SUBMIT's length too, which R61 gives as
decimal (DESIGN CHOICE, log 20). -/
def parseValue : List Char → Option Nat
  | [] => none
  | ['0', 'x'] => none
  | '0' :: 'x' :: cs => digitsValue 16 0 cs
  | cs => digitsValue 10 0 cs

/-- A payload: one string of hexadecimal digits, two a byte, BUF[0] first (R61). -/
def parseBytes : List Char → Option (List Byte)
  | [] => some []
  | [_] => none
  | a :: b :: cs =>
    match hexDigit a, hexDigit b, parseBytes cs with
    | some x, some y, some rest => some (BitVec.ofNat 8 (16 * x + y) :: rest)
    | _, _, _ => none

/-- A register: its name, or any index 0 to 15 (log 20). -/
def parseReg (t : List Char) : Option RegSel :=
  if t = "METRIC_KIND".toList then some .metricKind
  else if t = "FIELDS_PER_HOP".toList then some .fieldsPerHop
  else if t = "NUM_TRANSITS".toList then some .numTransits
  else if t = "DIAG_TRACE".toList then some .diagTrace
  else if t = "STATUS".toList then some .status
  else if t = "POSITION".toList then some .position
  else if t = "LENGTH".toList then some .length
  else
    match parseValue t with
    | some n => if n < 2 ^ 4 then some (RegSel.ofCode (BitVec.ofNat 4 n)) else none
    | none => none

/-- A header: its name, or any selector 0 to 15 (log 20). -/
def parseHdr (t : List Char) : Option HdrSel :=
  if t = "REPORT".toList then some .report
  else if t = "ETH".toList then some .eth
  else if t = "IPV4".toList then some .ipv4
  else if t = "UDP".toList then some .udp
  else if t = "SHIM".toList then some .shim
  else if t = "INTMETA".toList then some .intmeta
  else if t = "HOP".toList then some .hop
  else
    match parseValue t with
    | some n => if n < 2 ^ 4 then some (HdrSel.ofCode (BitVec.ofNat 4 n)) else none
    | none => none

/-- A value of METRIC_KIND: hop_latency is 0 and queue_occupancy 1 (R61). -/
def parseKind (t : List Char) : Option Nat :=
  if t = "hop_latency".toList then some 0
  else if t = "queue_occupancy".toList then some 1
  else parseValue t

/-- A value of DIAG_TRACE: off is 0 and on is 1 (R61). -/
def parseSwitch (t : List Char) : Option Nat :=
  if t = "off".toList then some 0
  else if t = "on".toList then some 1
  else parseValue t

/-- A value of a configuration register, with the names that register has. -/
def parseRegValue (r : RegSel) (t : List Char) : Option Nat :=
  if r = .metricKind then parseKind t
  else if r = .diagTrace then parseSwitch t
  else parseValue t

/-- One line from its words. What R61 leaves open is the model's choice (DESIGN CHOICE, log 20): a length of SUBMIT in 0x
hexadecimal is accepted beside the decimal one R61 gives, and SUBMIT 0 may leave its empty byte string out. -/
def parseWords : List (List Char) → Option AsmLine
  | [op] =>
    if op = "RESET".toList then some .resetLine
    else if op = "RUN".toList then some .run
    else none
  | [op, a] =>
    if op = "RDREG".toList then (parseReg a).map .rdreg
    else if op = "RDHDR".toList then (parseHdr a).map .rdhdr
    else if op = "READ".toList then (parseValue a).map .read
    else if op = "SKIP".toList then (parseValue a).map .skip
    else if op = "SUBMIT".toList then (parseValue a).map fun n => .submit n []
    else none
  | [op, a, b] =>
    if op = "CFGW".toList then
      match parseReg a with
      | none => none
      | some r => (parseRegValue r b).map (.cfgw r)
    else if op = "SUBMIT".toList then
      match parseValue a, parseBytes b with
      | some n, some bytes => some (.submit n bytes)
      | _, _ => none
    else none
  | [op, a, b, c, d] =>
    if op = "CONFIG".toList then
      match parseKind a, parseValue b, parseValue c, parseSwitch d with
      | some k, some f, some n, some t => some (.config k f n t)
      | _, _, _, _ => none
    else none
  | _ => none

/-- The words of a line: blanks and commas part them, a semicolon starts a comment (R61). `cur` is the word being read,
last character first. -/
def wordsFrom (cur : List Char) : List Char → List (List Char)
  | [] => if cur = [] then [] else [cur.reverse]
  | c :: cs =>
    if c = ';' then (if cur = [] then [] else [cur.reverse])
    else if c = ' ' ∨ c = ',' ∨ c = '\t' ∨ c = '\r' then
      if cur = [] then wordsFrom [] cs else cur.reverse :: wordsFrom [] cs
    else wordsFrom (c :: cur) cs

/-- The lines of a text; `cur` is the line being read, last character first. -/
def linesFrom (cur : List Char) : List Char → List (List Char)
  | [] => [cur.reverse]
  | c :: cs => if c = '\n' then cur.reverse :: linesFrom [] cs else linesFrom (c :: cur) cs

/-- What one line of text stands for; an empty line or a comment stands for nothing. -/
def assembleLine (line : List Char) : Option (List ScriptEvent) :=
  match wordsFrom [] line with
  | [] => some []
  | ws =>
    match parseWords ws with
    | none => none
    | some l => l.expand

/-- The lines of a program, one after another. -/
def assembleLines : List (List Char) → Option (List ScriptEvent)
  | [] => some []
  | l :: ls =>
    match assembleLine l, assembleLines ls with
    | some a, some b => some (a ++ b)
    | _, _ => none

/-- A program's text as the script of what comes from outside (R61, R62). -/
def assemble (text : List Char) : Option (List ScriptEvent) := assembleLines (linesFrom [] text)

end Sys2Proof.Machine
end

