-- ==== Sys2Proof/Machine/Tables.lean ====
section
/-! DEFINITION. The header values at their stream offsets, as the tables of `30_encoding.md` R47 to R53 give them and R54 reads them: the clear form that the sequential decoders are held against. -/

namespace Sys2Proof.Machine

/-- The field of width w at relative stream offset o of a header that starts at stream position b (R54). -/
def fieldAt (m : Memory) (b o w : Nat) : BitVec w := BitVec.ofNat w (bitsAt m (b + o) w)

/-- R47. -/
def ReportHdr.readFrom (m : Memory) (b : Nat) : ReportHdr :=
  { ver := fieldAt m b 0 4, len := fieldAt m b 4 4, nproto := fieldAt m b 8 3, rep_md_bits := fieldAt m b 11 6,
    rsvd := fieldAt m b 17 6, d := fieldAt m b 23 1, q := fieldAt m b 24 1, f := fieldAt m b 25 1,
    hw_id := fieldAt m b 26 6, sw_id := fieldAt m b 32 32, seq_no := fieldAt m b 64 32,
    ingress_tstamp := fieldAt m b 96 32 }

/-- R48. -/
def EthHdr.readFrom (m : Memory) (b : Nat) : EthHdr :=
  { dst_addr := fieldAt m b 0 48, src_addr := fieldAt m b 48 48, etherType := fieldAt m b 96 16 }

/-- R49. -/
def Ipv4Hdr.readFrom (m : Memory) (b : Nat) : Ipv4Hdr :=
  { version := fieldAt m b 0 4, ihl := fieldAt m b 4 4, dscp := fieldAt m b 8 6, ecn := fieldAt m b 14 2,
    length := fieldAt m b 16 16, identification := fieldAt m b 32 16, flags := fieldAt m b 48 3,
    frag_offset := fieldAt m b 51 13, ttl := fieldAt m b 64 8, protocol := fieldAt m b 72 8,
    hdr_checksum := fieldAt m b 80 16, src_addr := fieldAt m b 96 32, dst_addr := fieldAt m b 128 32 }

/-- R50. -/
def UdpHdr.readFrom (m : Memory) (b : Nat) : UdpHdr :=
  { src_port := fieldAt m b 0 16, dst_port := fieldAt m b 16 16, length := fieldAt m b 32 16,
    checksum := fieldAt m b 48 16 }

/-- R51. -/
def ShimHdr.readFrom (m : Memory) (b : Nat) : ShimHdr :=
  { int_type := fieldAt m b 0 8, rsvd1 := fieldAt m b 8 8, len := fieldAt m b 16 8, dscp := fieldAt m b 24 6,
    rsvd2 := fieldAt m b 30 2 }

/-- R52. -/
def IntmetaHdr.readFrom (m : Memory) (b : Nat) : IntmetaHdr :=
  { ver := fieldAt m b 0 4, rep := fieldAt m b 4 2, c := fieldAt m b 6 1, e := fieldAt m b 7 1,
    m := fieldAt m b 8 1, rsvd1 := fieldAt m b 9 7, rsvd2 := fieldAt m b 16 3,
    hop_metadata_len := fieldAt m b 19 5, remaining_hop_cnt := fieldAt m b 24 8,
    instruction_mask_0003 := fieldAt m b 32 4, instruction_mask_0407 := fieldAt m b 36 4,
    instruction_mask_0811 := fieldAt m b 40 4, instruction_mask_1215 := fieldAt m b 44 4,
    rsvd3 := fieldAt m b 48 16 }

/-- R53. -/
def HopRecord.readFrom (m : Memory) (b : Nat) : HopRecord :=
  { switch_id := fieldAt m b 0 32, ingress_port := fieldAt m b 32 16, egress_port := fieldAt m b 48 16,
    hop_latency := fieldAt m b 64 32, q_id := fieldAt m b 96 8, q_occupancy := fieldAt m b 104 24,
    ingress_tstamp := fieldAt m b 128 32, egress_tstamp := fieldAt m b 160 32,
    ingress_port_2 := fieldAt m b 192 16, egress_port_2 := fieldAt m b 208 16,
    egress_port_tx_util := fieldAt m b 224 32 }

end Sys2Proof.Machine
end

