-- ==== Sys2Proof/Machine/Job.lean ====
section
/-! DEFINITION. The job as one function of the payload, the latched configuration and the sink's answers (`44_pipeline.md` R98), written apart from the step rules. No step calls it: the steps are held against it. -/

namespace Sys2Proof.Machine

/-- What a job is a function of (R98): the buffer, LEN, the latched configuration and the sink's answers in event order. -/
structure JobInput where
  buf : Memory
  len : Nat
  kind : BitVec 1
  fph : Nat
  nt : Nat
  trace : BitVec 1

/-- What a job has computed so far (R98). -/
structure JobAcc where
  hop : Nat
  pos : Nat
  hdr : HdrRegs
  sinkEvents : List SinkEvent
  traceEvents : List TraceEvent
deriving DecidableEq, Repr

/-- How a job ended, and what it has computed (R98, R99). -/
structure JobResult where
  seq : BitVec 4
  result : BitVec 2
  errStage : BitVec 4
  acc : JobAcc
deriving DecidableEq, Repr

/-- The payload ends before the span of stage c (R98, `60_exceptions.md` R102). -/
def JobAcc.underrun (a : JobAcc) (c : BitVec 4) : JobResult := ⟨Stage.underrun, ResultCode.underrun, c, a⟩

/-- trace (H, HDR_H) when t = 1 (R98). -/
def JobAcc.traced (a : JobAcc) (t : BitVec 1) (e : TraceEvent) : JobAcc :=
  if t = 1#1 then { a with traceEvents := a.traceEvents ++ [e] } else a

/-- The records from index `a.hop` on, `rest` of them (R98's while loop). -/
def jobRecords (j : JobInput) (answers : Nat → SinkAnswer) : Nat → JobAcc → JobResult
  | 0, a => ⟨Stage.done, ResultCode.done, 0#4, a⟩
  | rest + 1, a =>
    if a.pos + 32 * j.fph > 8 * j.len then a.underrun Stage.hop
    else
      let r := HopRecord.readFrom j.buf a.pos
      let b := ({ a with hdr := { a.hdr with hop := r, vHop := true }, pos := a.pos + 32 * j.fph }).traced j.trace
        (.hop (BitVec.ofNat 8 a.hop) r)
      match sinkOf r.switch_id with
      | none => jobRecords j answers rest { b with hop := b.hop + 1 }
      | some k =>
        let ans := answers b.sinkEvents.length
        let c := { b with sinkEvents := b.sinkEvents ++ [⟨k, sampleValue j.kind r, ans⟩] }
        match ans with
        | .fail => ⟨Stage.fatal, ResultCode.fatal, Stage.route, c⟩
        | .ok => jobRecords j answers rest { c with hop := c.hop + 1 }

/-- The job from stage INTMETA on, at stream position 496 (R98). -/
def jobFromIntmeta (j : JobInput) (answers : Nat → SinkAnswer) (a : JobAcc) : JobResult :=
  if 560 > 8 * j.len then a.underrun Stage.intmeta
  else
    jobRecords j answers j.nt
      (({ a with hdr := { a.hdr with intmeta := IntmetaHdr.readFrom j.buf 496, vIntmeta := true }, pos := 560 }).traced j.trace
        (.intmeta (IntmetaHdr.readFrom j.buf 496)))

/-- The job from stage SHIM on, at stream position 464 (R98). -/
def jobFromShim (j : JobInput) (answers : Nat → SinkAnswer) (a : JobAcc) : JobResult :=
  if 496 > 8 * j.len then a.underrun Stage.shim
  else
    jobFromIntmeta j answers
      (({ a with hdr := { a.hdr with shim := ShimHdr.readFrom j.buf 464, vShim := true }, pos := 496 }).traced j.trace
        (.shim (ShimHdr.readFrom j.buf 464)))

/-- The job from stage UDP on, at stream position 400 (R98). -/
def jobFromUdp (j : JobInput) (answers : Nat → SinkAnswer) (a : JobAcc) : JobResult :=
  if 464 > 8 * j.len then a.underrun Stage.udp
  else
    jobFromShim j answers
      (({ a with hdr := { a.hdr with udp := UdpHdr.readFrom j.buf 400, vUdp := true }, pos := 464 }).traced j.trace
        (.udp (UdpHdr.readFrom j.buf 400)))

/-- The job from stage IPV4 on, at stream position 240 (R98). -/
def jobFromIpv4 (j : JobInput) (answers : Nat → SinkAnswer) (a : JobAcc) : JobResult :=
  if 400 > 8 * j.len then a.underrun Stage.ipv4
  else
    jobFromUdp j answers
      (({ a with hdr := { a.hdr with ipv4 := Ipv4Hdr.readFrom j.buf 240, vIpv4 := true }, pos := 400 }).traced j.trace
        (.ipv4 (Ipv4Hdr.readFrom j.buf 240)))

/-- The job from stage ETH on, at stream position 128 (R98). -/
def jobFromEth (j : JobInput) (answers : Nat → SinkAnswer) (a : JobAcc) : JobResult :=
  if 240 > 8 * j.len then a.underrun Stage.eth
  else
    jobFromIpv4 j answers
      (({ a with hdr := { a.hdr with eth := EthHdr.readFrom j.buf 128, vEth := true }, pos := 240 }).traced j.trace
        (.eth (EthHdr.readFrom j.buf 128)))

/-- The job from stage REPORT on, at stream position 0 (R98). -/
def jobFromReport (j : JobInput) (answers : Nat → SinkAnswer) (a : JobAcc) : JobResult :=
  if 128 > 8 * j.len then a.underrun Stage.report
  else
    jobFromEth j answers
      (({ a with hdr := { a.hdr with report := ReportHdr.readFrom j.buf 0, vReport := true }, pos := 128 }).traced j.trace
        (.report (ReportHdr.readFrom j.buf 0)))

/-- The whole job (R98), from header registers `h` whose valid bits are 0. -/
def jobRun (j : JobInput) (answers : Nat → SinkAnswer) (h : HdrRegs) : JobResult :=
  jobFromReport j answers ⟨0, 0, h, [], []⟩

/-- The job a state has latched (R98). -/
def State.jobInput (s : State) : JobInput :=
  { buf := s.buf, len := s.len.toNat, kind := s.job.kind, fph := s.job.fph.toNat, nt := s.job.nt.toNat,
    trace := s.job.trace }

/-- The environment after the sink has answered n times. -/
def Env.takeSinkReplies (e : Env) : Nat → Env
  | 0 => e
  | n + 1 => (e.takeSinkReply).takeSinkReplies n

/-- The sink's answer to the n-th sink event from a state on. -/
def State.sinkReplyAt (s : State) (n : Nat) : SinkAnswer :=
  ({ s with env := s.env.takeSinkReplies n } : State).sinkReply

/-- The state at the end of a job, from the state that SUBMIT left (R98, R99). -/
def State.afterJob (s : State) (r : JobResult) : State :=
  { s with
    seq := r.seq, result := r.result, errStage := r.errStage, hopIdx := BitVec.ofNat 8 r.acc.hop,
    pos := BitVec.ofNat 19 r.acc.pos, hdr := r.acc.hdr, sinkLog := s.sinkLog ++ r.acc.sinkEvents,
    traceLog := s.traceLog ++ r.acc.traceEvents, env := s.env.takeSinkReplies r.acc.sinkEvents.length }

/-- The state in which SUBMIT leaves the core (R94): a job at its first stage. -/
def State.atJobStart (s : State) : Bool :=
  decide (s.seq = Stage.report) && decide (s.pos = 0) && decide (s.hopIdx = 0) && decide (s.result = ResultCode.none)
    && decide (s.errStage = 0) && decide (Config.fphMin ≤ s.job.fph.toNat)

end Sys2Proof.Machine
end

