-- ==== Sys2Proof/Safety.lean ====
section
/-! DEFINITION. What a claim means by a safe run: the invariant of `10_state.md` R26 with the relations R15, R20, R21 state beside it, the core's rows of R91's table, a step that goes on, and a run that no command was refused in. -/

namespace Sys2Proof.Machine

/-- The step goes on: neither a fault nor a refusal of the model. -/
def Safe (o : Host.Outcome State Fault Refusal) : Prop := ∃ t, o = .next t

/-- The run is marked refused (`60_exceptions.md` R105). -/
def State.runRefused (s : State) : Bool := !s.env.refusals.isEmpty

/-- No request is placed at the BitCursor's port directly, as in every run of the hardware (`30_encoding.md` R55). -/
def State.noDirectRequest (s : State) : Bool :=
  s.env.script.all fun e =>
    match e with
    | .cursorRequest _ => false
    | _ => true

/-- The stage a job has reached: where it was aborted, else STATE. -/
def State.reached (s : State) : Nat :=
  if s.seq = Stage.underrun ∨ s.seq = Stage.fatal then s.errStage.toNat else s.seq.toNat

/-- POS at the start of a stage (R26 item 2; after DONE, the end of the last record, `42_perhop.md` R81). -/
def State.stageStart (s : State) : Nat → Nat
  | 2 => 128
  | 3 => 240
  | 4 => 400
  | 5 => 464
  | 6 => 496
  | 7 => 560 + 32 * s.job.fph.toNat * s.hopIdx.toNat
  | 8 => 560 + 32 * s.job.fph.toNat * (s.hopIdx.toNat + 1)
  | 9 => 560 + 32 * s.job.fph.toNat * s.hopIdx.toNat
  | _ => 0

/-- The bits a decoding stage takes (`30_encoding.md` R46, `42_perhop.md` R79). -/
def State.stageSpan (s : State) : Nat → Nat
  | 1 => 128
  | 2 => 112
  | 3 => 160
  | 4 => 64
  | 5 => 32
  | 6 => 64
  | 7 => 32 * s.job.fph.toNat
  | _ => 0

/-- RESULT that goes with a STATE (R21). -/
def resultOf (c : BitVec 4) : BitVec 2 :=
  if c = Stage.done then ResultCode.done
  else if c = Stage.underrun then ResultCode.underrun
  else if c = Stage.fatal then ResultCode.fatal
  else ResultCode.none

/-- The valid bits are those of the headers decoded so far in the job (R26 item 4). -/
structure ValidBitsMatch (s : State) : Prop where
  report : s.hdr.vReport = decide (2 ≤ s.reached)
  eth : s.hdr.vEth = decide (3 ≤ s.reached)
  ipv4 : s.hdr.vIpv4 = decide (4 ≤ s.reached)
  udp : s.hdr.vUdp = decide (5 ≤ s.reached)
  shim : s.hdr.vShim = decide (6 ≤ s.reached)
  intmeta : s.hdr.vIntmeta = decide (7 ≤ s.reached)
  hop : s.hdr.vHop = (decide (7 ≤ s.reached) && (decide (s.reached = 8) || decide (0 < s.hopIdx.toNat)))

/-- HOP_IDX follows the stage and never passes NT (R20, R26 item 5). -/
structure HopIdxMatches (s : State) : Prop where
  le : s.hopIdx.toNat ≤ s.job.nt.toNat
  headers : s.reached ≤ 6 → s.hopIdx.toNat = 0
  record : s.reached = 7 ∨ s.reached = 8 → s.hopIdx.toNat < s.job.nt.toNat
  done : s.reached = 9 → s.hopIdx.toNat = s.job.nt.toNat

/-- STATE, RESULT and ERR_STAGE agree (R15, R21, R26 item 6). -/
structure StatusMatches (s : State) : Prop where
  legal : s.seq.toNat ≤ 11
  result : s.result = resultOf s.seq
  noError : s.seq ≠ Stage.underrun → s.seq ≠ Stage.fatal → s.errStage = 0
  underrun : s.seq = Stage.underrun → 1 ≤ s.errStage.toNat ∧ s.errStage.toNat ≤ 7
  fatal : s.seq = Stage.fatal → s.errStage = Stage.route

/-- POS is the start of the stage's span, on a byte boundary inside the buffer (R17, R26 items 1 to 3); at UNDERRUN the
span from POS does not fit. -/
structure PosMatches (s : State) : Prop where
  inBuffer : s.pos.toNat ≤ 8 * s.len.toNat
  stage : s.pos.toNat = s.stageStart s.reached
  byteAligned : s.pos.toNat % 8 = 0
  short : s.seq = Stage.underrun → 8 * s.len.toNat < s.pos.toNat + s.stageSpan s.errStage.toNat

/-- BUF is canonical and holds nothing from LEN up (log 6). -/
structure BufMatches (s : State) : Prop where
  canonical : s.buf.wf = true
  below : s.buf.below s.len.toNat = true

/-- The invariant of the machine (R26), over runs in which only the decoders issue cursor requests. -/
structure Inv (s : State) : Prop where
  status : StatusMatches s
  pos : PosMatches s
  valid : ValidBitsMatch s
  hopIdx : HopIdxMatches s
  buf : BufMatches s
  fphMin : s.seq ≠ Stage.idle → Config.fphMin ≤ s.job.fph.toNat
  noDirect : s.noDirectRequest = true

/-- The core's rows of the transition table (`44_pipeline.md` R91): from STATE of `s`, the core's step goes to STATE `c`.
ROUTE goes to HOP where HOP_IDX + 1 is not NT; in every state of the invariant that is HOP_IDX + 1 < NT. -/
def State.coreRow (s : State) (c : BitVec 4) : Prop :=
  (s.seq = Stage.report ∧ (c = Stage.eth ∨ c = Stage.underrun))
  ∨ (s.seq = Stage.eth ∧ (c = Stage.ipv4 ∨ c = Stage.underrun))
  ∨ (s.seq = Stage.ipv4 ∧ (c = Stage.udp ∨ c = Stage.underrun))
  ∨ (s.seq = Stage.udp ∧ (c = Stage.shim ∨ c = Stage.underrun))
  ∨ (s.seq = Stage.shim ∧ (c = Stage.intmeta ∨ c = Stage.underrun))
  ∨ (s.seq = Stage.intmeta ∧ (c = Stage.underrun ∨ c = if s.job.nt = 0#8 then Stage.done else Stage.hop))
  ∨ (s.seq = Stage.hop ∧ (c = Stage.route ∨ c = Stage.underrun))
  ∨ (s.seq = Stage.route ∧ c =
      if (sinkOf s.hdr.hop.switch_id).isSome ∧ s.sinkReply = .fail then Stage.fatal
      else if s.hopIdx.toNat + 1 = s.job.nt.toNat then Stage.done
      else Stage.hop)

/-- The per-hop record that HDR_HOP holds: the one just decoded in ROUTE, else the one before HOP_IDX (R80). -/
def State.lastRecord (s : State) : Nat := if s.reached = 8 then s.hopIdx.toNat else s.hopIdx.toNat - 1

/-- Every valid header register holds the fields of its place in the payload (`20_memory.md` R36, `30_encoding.md` R54). -/
structure HeadersMatchPayload (s : State) : Prop where
  report : s.hdr.vReport = true → s.hdr.report = ReportHdr.readFrom s.buf 0
  eth : s.hdr.vEth = true → s.hdr.eth = EthHdr.readFrom s.buf 128
  ipv4 : s.hdr.vIpv4 = true → s.hdr.ipv4 = Ipv4Hdr.readFrom s.buf 240
  udp : s.hdr.vUdp = true → s.hdr.udp = UdpHdr.readFrom s.buf 400
  shim : s.hdr.vShim = true → s.hdr.shim = ShimHdr.readFrom s.buf 464
  intmeta : s.hdr.vIntmeta = true → s.hdr.intmeta = IntmetaHdr.readFrom s.buf 496
  hop : s.hdr.vHop = true → s.hdr.hop = HopRecord.readFrom s.buf (560 + 32 * s.job.fph.toNat * s.lastRecord)

/-- While a record waits in ROUTE with tracing on, its own trace event is the last one emitted: a record's trace event
comes before its sink event (`43_demux.md` R90, `70_reset_and_hazards.md` R126). -/
def RecordTraced (s : State) : Prop :=
  s.seq = Stage.route → s.job.trace = 1#1 → s.traceLog.getLast? = some (.hop s.hopIdx s.hdr.hop)

end Sys2Proof.Machine
end

