-- ==== Sys2Proof/Certificates/Slice0/Obligations.lean ====
section
/-! DEFINITION. The statements for the provers, from the numbered rules of spec/. Each docstring names the rules and, where a clause is the model's own choice, the log entry. -/

open Sys2Proof Sys2Proof.Machine

/-- For every well-formed operation i, with every operand at every value its encoding admits, decode (encode i) is i.
Well-formed means READ at most 48 bits, SKIP at most 8191 bits, SUBMIT length below 2^16. (30_encoding.md section 4
(R55, R56), 30_encoding.md section 5 (R57)) -/
def Obligations.DecodeOfEncodeIsIdentity : Prop :=
  ∀ i : Instr, i.WellFormed = true → decode (encode i) = .ok i

/-- If a code word decodes to an operation i then i is well formed and encode i is that very word: each word has one
meaning and no reserved bit is dropped. (30_encoding.md section 4 (R55, R56), 30_encoding.md section 6 (R59)) -/
def Obligations.DecodedWordIsItsOwnEncoding : Prop :=
  ∀ (c : CodeWord) (i : Instr), decode c = .ok i → i.WellFormed = true ∧ encode i = c

/-- A host word is rejected exactly when OP is not 1 to 4, a bit of [23:16] is set, IMM is not 0 for RDREG or RDHDR,
or SEL is not 0 for SUBMIT (a SEL that names no register or header decodes and is refused by the command). A cursor
request is rejected exactly when a bit of [14:13] is set or K is 0 and W exceeds 48. A sequencer code is rejected as
reserved exactly when it is 0xC to 0xF. (30_encoding.md section 6 (R59), 30_encoding.md section 4 (R55, R56),
10_state.md R15) -/
def Obligations.IllegalWordsAreExactlyTheListed : Prop :=
  (∀ w : Word, (∃ r, decodeHost w = .error r) ↔
      (w.extractLsb' 28 4 = 0#4 ∨ 4#4 < w.extractLsb' 28 4) ∨ w.extractLsb' 16 8 ≠ 0#8
        ∨ ((w.extractLsb' 28 4 = 2#4 ∨ w.extractLsb' 28 4 = 4#4) ∧ w.extractLsb' 0 16 ≠ 0#16)
        ∨ (w.extractLsb' 28 4 = 3#4 ∧ w.extractLsb' 24 4 ≠ 0#4))
  ∧ (∀ q : BitVec 16, (∃ r, decodeCursor q = .error r) ↔
      q.extractLsb' 13 2 ≠ 0#2 ∨ (q.extractLsb' 15 1 = 0#1 ∧ 48 < (q.extractLsb' 0 13).toNat))
  ∧ (∀ c : BitVec 4, decodeSequencer c = .error .reservedState ↔ 12 ≤ c.toNat)

/-- The words of the spec: 0x1100000A is CFGW FIELDS_PER_HOP, 10; 0x24000000 is RDREG STATUS; 0x300000BE is SUBMIT
190; 0x46000000 is RDHDR HOP; request 0x0030 is READ 48; request 0x9EE0 is SKIP 7904; STATE 0x7 selects DEC_HOP.
(95_test_vectors.md section 2.6, 44_pipeline.md examples of R95, R96, 30_encoding.md R55, R57) -/
def Obligations.SpecWordsDecode : Prop :=
  decodeHost 0x1100000A#32 = .ok (.cfgw .fieldsPerHop 10#16) ∧ decodeHost 0x24000000#32 = .ok (.rdreg .status)
  ∧ decodeHost 0x300000BE#32 = .ok (.submit 190) ∧ decodeHost 0x46000000#32 = .ok (.rdhdr .hop)
  ∧ decodeCursor 0x0030#16 = .ok (.read 48) ∧ decodeCursor 0x9EE0#16 = .ok (.skip 7904)
  ∧ decodeSequencer 0x7#4 = .ok .decHop

/-- With no SUBMIT held: when the core has the turn (or the script is empty) and STATE selects operation i, step is
exec i at the state with the turn taken from the script; when STATE is no reserved code and the host sends a word that
decodes to i, step is exec i at the state with the word taken and its bytes on the byte channel; likewise for a
request at the BitCursor port. The script and the port are the model own (log 1, log 10). What a step does while a
SUBMIT is held is said in BusyCoreHoldsSubmit, in a reserved STATE in ReservedStateAndIllegalRequestsFault.
(44_pipeline.md R92, 30_encoding.md R56, R57, notes/assumptions/1.md, notes/assumptions/10.md,
notes/assumptions/12.md) -/
def Obligations.StepRunsTheSelectedOperation : Prop :=
  (∀ (s : State) (i : Instr) (rest : List ScriptEvent), s.env.held = none → s.env.script = .coreTurn :: rest →
      decodeSequencer s.seq = .ok i → step s = exec i { s with env := { s.env with script := rest } })
  ∧ (∀ (s : State) (i : Instr), s.env.held = none → s.env.script = [] → decodeSequencer s.seq = .ok i → step s = exec i s)
  ∧ (∀ (s : State) (i : Instr) (w : Word) (bytes : List Byte) (rest : List ScriptEvent), s.seq.toNat < 12 →
      s.env.held = none → s.env.script = .command w bytes :: rest → decodeHost w = .ok i →
      step s = exec i { s with env := { s.env with script := rest, byteChannel := bytes } })
  ∧ (∀ (s : State) (i : Instr) (q : BitVec 16) (rest : List ScriptEvent), s.seq.toNat < 12 → s.env.held = none →
      s.env.script = .cursorRequest q :: rest → decodeCursor q = .ok i →
      step s = exec i { s with env := { s.env with script := rest } })

/-- If a table word decodes to operation i then the step from s.withFetchWord is exec i at a state that differs from s
in three fields at most: a sequencer code is in STATE, and STATE is as before for every other word; no SUBMIT is held;
a placed SUBMIT n finds n zero bytes on the byte channel, any other host word finds none, and the channel is as before
for the other words. For a host word or a cursor request STATE must not be reserved, where every step faults (log 12).
withFetchWord is the model own (log 14, log 15). (30_encoding.md R57, notes/assumptions/12.md,
notes/assumptions/14.md, notes/assumptions/15.md) -/
def Obligations.PlacedWordIsTheNextOperation : Prop :=
  ∀ (s : State) (nbits w : Nat) (i : Instr), decodeTableWord nbits w = some i → (nbits ≤ 8 ∨ s.seq.toNat < 12) →
    ∃ t : State, step (s.withFetchWord nbits w) = exec i t
      ∧ t = { s with seq := t.seq, env := { s.env with held := none, byteChannel := t.env.byteChannel } }
      ∧ (nbits ≤ 8 → t.seq = BitVec.ofNat 4 w) ∧ (8 < nbits → t.seq = s.seq)
      ∧ (nbits ≤ 16 → t.env.byteChannel = s.env.byteChannel)
      ∧ (∀ n, i = .submit n → t.env.byteChannel = List.replicate n 0#8)
      ∧ (16 < nbits → (∀ n, i ≠ .submit n) → t.env.byteChannel = [])

/-- When STATE is IDLE, DONE, UNDERRUN or FATAL the core has no step: its turn leaves the state as it is (that the
machine then goes on unchanged is the model choice, log 2). (44_pipeline.md R92, 10_state.md R15,
notes/assumptions/2.md) -/
def Obligations.TerminalStatesHaveNoCoreStep : Prop :=
  ∀ s : State, s.seq = Stage.idle ∨ s.seq = Stage.done ∨ s.seq = Stage.underrun ∨ s.seq = Stage.fatal →
    coreStep s = .next s

/-- In a STATE 0xC to 0xF the core step, a SUBMIT and every step of the machine but a reset fault as reservedState
(that a host command faults there too, and that a reset does not, is the model reading, log 12). A request at the
BitCursor port (the model own, log 10) that the decoder rejects faults, and so does READ wider than 48. That SKIP
wider than 8191 faults is the model deduction, since no request holds that width (log 12). (60_exceptions.md R106,
10_state.md R15, 30_encoding.md R59, notes/assumptions/10.md, notes/assumptions/12.md) -/
def Obligations.ReservedStateAndIllegalRequestsFault : Prop :=
  (∀ s : State, 12 ≤ s.seq.toNat → coreStep s = .fault .reservedState)
  ∧ (∀ (s : State) (n : Nat), 12 ≤ s.seq.toNat → exec (.submit n) s = .fault .reservedState)
  ∧ (∀ s : State, 12 ≤ s.seq.toNat → (∀ rest, s.env.script ≠ .resetInput :: rest) → step s = .fault .reservedState)
  ∧ (∀ (s : State) (q : BitVec 16) (r : Reject), decodeCursor q = .error r → cursorStep q s = .fault .illegalCursorRequest)
  ∧ (∀ (s : State) (w : Nat), 48 < w → exec (.read w) s = .fault .illegalCursorRequest)
  ∧ (∀ (s : State) (w : Nat), 8191 < w → exec (.skip w) s = .fault .illegalCursorRequest)

/-- For w at most 48 with POS + w at most 8*LEN, READ w completes: POS becomes POS + w, the value BitsAt(POS, w) is
returned (the model hands it to the answer history, log 11), and nothing else changes. Width 0 returns 0 and leaves
POS alone, even at the end. (40_bitcursor.md R64, notes/assumptions/11.md) -/
def Obligations.ReadReturnsBitsAtPosition : Prop :=
  (∀ (s : State) (w : Nat), w ≤ 48 → s.pos.toNat + w ≤ 8 * s.len.toNat →
      exec (.read w) s = .next { s with
        pos := BitVec.ofNat 19 (s.pos.toNat + w)
        env := { s.env with answers := s.env.answers ++ [.readValue w (BitVec.ofNat 48 (bitsAt s.buf s.pos.toNat w))] } })
  ∧ (∀ s : State, s.pos.toNat ≤ 8 * s.len.toNat →
      exec (.read 0) s = .next { s with env := { s.env with answers := s.env.answers ++ [.readValue 0 0#48] } })

/-- SKIP w, for w at most 8191, is the request K = 1, W = w. With POS + w at most 8*LEN it writes POS + w to POS and
nothing else (w = 0 does nothing); with fewer bits left it raises BufferUnderrun in the current STATE, POS kept. (R66)
-/
def Obligations.SkipMovesPositionOnly : Prop :=
  (∀ w : Nat, encode (.skip w) = .cursor (1#1 ++ 0#2 ++ BitVec.ofNat 13 w))
  ∧ (∀ (s : State) (w : Nat), w ≤ 8191 → s.pos.toNat + w ≤ 8 * s.len.toNat →
      exec (.skip w) s = .next { s with pos := BitVec.ofNat 19 (s.pos.toNat + w) })
  ∧ (∀ s : State, s.pos.toNat ≤ 8 * s.len.toNat → exec (.skip 0) s = .next s)
  ∧ (∀ (s : State) (w : Nat), w ≤ 8191 → 8 * s.len.toNat < s.pos.toNat + w →
      exec (.skip w) s = .next { s with result := 2#2, errStage := s.seq, seq := 0xA#4 })

/-- For READ (w at most 48) and SKIP (w at most 8191): if POS + w exceeds 8*LEN the operation raises BufferUnderrun in
the current STATE (RESULT 2, ERR_STAGE, STATE UNDERRUN) and changes nothing else: POS keeps its value. Otherwise POS
becomes POS + w. (R63) -/
def Obligations.CursorChecksBoundFirst : Prop :=
  ∀ (s : State) (w : Nat),
    (8 * s.len.toNat < s.pos.toNat + w →
      (w ≤ 48 → exec (.read w) s = .next { s with result := 2#2, errStage := s.seq, seq := 0xA#4 })
      ∧ (w ≤ 8191 → exec (.skip w) s = .next { s with result := 2#2, errStage := s.seq, seq := 0xA#4 }))
    ∧ (s.pos.toNat + w ≤ 8 * s.len.toNat →
      (w ≤ 48 → ∃ t, exec (.read w) s = .next t ∧ t.pos = BitVec.ofNat 19 (s.pos.toNat + w))
      ∧ (w ≤ 8191 → ∃ t, exec (.skip w) s = .next t ∧ t.pos = BitVec.ofNat 19 (s.pos.toNat + w)))

/-- From a state with POS at most 8*LEN, whenever READ w gives a next state, POS is still at most 8*LEN there, and a
value it returned is below 2^w. The spec marks R65 as its own inference: "[derived: from rule R64 and rule R63]".
(40_bitcursor.md R65 (the inference of the spec itself)) -/
def Obligations.ReadValueInRangeAndPositionInBuffer : Prop :=
  ∀ (s t : State) (w : Nat), s.pos.toNat ≤ 8 * s.len.toNat → exec (.read w) s = .next t →
    t.pos.toNat ≤ 8 * t.len.toNat
      ∧ ∀ v : BitVec 48, t.env.answers = s.env.answers ++ [.readValue w v] → v.toNat < 2 ^ w

/-- The value of a field of width w at stream position p is the sum over j below w of S(p + j) times 2 to the w - 1 -
j: the first bit read is the most significant. (R30) -/
def Obligations.FieldIsWeightedSumOfStreamBits : Prop :=
  ∀ (m : Memory) (p w : Nat),
    bitsAt m p w = ∑ j ∈ Finset.range w, (streamBit m (p + j)).toNat * 2 ^ (w - 1 - j)

/-- MemRead(a, n) is the sum over i below n of BUF[a + i] times 2 to the 8(n - 1 - i), and a field of width 8n at
stream position 8a has that value. The bytes 0x1F 0x42 give 8002. The spec marks R31 as its own inference: "[derived:
from rule R29 and rule R30]". (20_memory.md R31 (the inference of the spec itself)) -/
def Obligations.ByteAlignedFieldIsBigEndian : Prop :=
  (∀ (m : Memory) (a n : Nat), memRead m a n = ∑ i ∈ Finset.range n, (m.read (a + i)).toNat * 2 ^ (8 * (n - 1 - i)))
  ∧ (∀ (m : Memory) (a n : Nat), bitsAt m (8 * a) (8 * n) = memRead m a n)
  ∧ bitsAt (Memory.load [0x1F#8, 0x42#8]) 0 16 = 8002

/-- For every payload P, byte k below its length and j below 8, stream bit 8k + j of the buffer loaded with P is bit 7
- j of P[k]. (R29) -/
def Obligations.StreamBitsAreMostSignificantFirst : Prop :=
  ∀ (bytes : List Byte) (k j : Nat) (hk : k < bytes.length), j < 8 →
    streamBit (Memory.load bytes) (8 * k + j) = bytes[k].getLsbD (7 - j)

/-- Loading a payload gives a buffer in canonical form that holds no address from its length up and reads every byte
back; two canonical buffers that read alike everywhere are the same list (log 6). (10_state.md R16, 20_memory.md R28,
notes/assumptions/6.md) -/
def Obligations.LoadedBufferIsCanonicalAndReadsBack : Prop :=
  (∀ bytes : List Byte, (Memory.load bytes).wf = true ∧ (Memory.load bytes).below bytes.length = true
      ∧ ∀ (k : Nat) (hk : k < bytes.length), (Memory.load bytes).read k = bytes[k])
  ∧ (∀ m m' : Memory, m.wf = true → m'.wf = true → (∀ a, m.read a = m'.read a) → m = m')

/-- DEC_REPORT is selected by STATE = 0x1. With POS + 128 at most 8*LEN it writes every field of its register from its
place in the table of R47, sets the valid bit, adds 128 to POS, emits the trace event when TRACE = 1, goes to the next
stage, and changes nothing else. Otherwise it raises BufferUnderrun with ERR_STAGE 0x1 and nothing else changes. (R73,
R47) -/
def Obligations.DecReportReadsItsFieldsOrUnderruns : Prop :=
  decodeSequencer 0x1#4 = .ok .decReport ∧ ∀ s : State,
    (s.pos.toNat + 128 ≤ 8 * s.len.toNat →
      exec .decReport s = .next { s with
        hdr := { s.hdr with report := ReportHdr.readFrom s.buf s.pos.toNat, vReport := true }
        pos := BitVec.ofNat 19 (s.pos.toNat + 128)
        traceLog := if s.job.trace = 1#1 then s.traceLog ++ [.report (ReportHdr.readFrom s.buf s.pos.toNat)] else s.traceLog
        seq := 0x2#4 })
    ∧ (8 * s.len.toNat < s.pos.toNat + 128 →
      exec .decReport s = .next { s with result := 2#2, errStage := 0x1#4, seq := 0xA#4 })

/-- DEC_ETH is selected by STATE = 0x2. With POS + 112 at most 8*LEN it writes every field of its register from its
place in the table of R48, sets the valid bit, adds 112 to POS, emits the trace event when TRACE = 1, goes to the next
stage, and changes nothing else. Otherwise it raises BufferUnderrun with ERR_STAGE 0x2 and nothing else changes. (R74,
R48) -/
def Obligations.DecEthReadsItsFieldsOrUnderruns : Prop :=
  decodeSequencer 0x2#4 = .ok .decEth ∧ ∀ s : State,
    (s.pos.toNat + 112 ≤ 8 * s.len.toNat →
      exec .decEth s = .next { s with
        hdr := { s.hdr with eth := EthHdr.readFrom s.buf s.pos.toNat, vEth := true }
        pos := BitVec.ofNat 19 (s.pos.toNat + 112)
        traceLog := if s.job.trace = 1#1 then s.traceLog ++ [.eth (EthHdr.readFrom s.buf s.pos.toNat)] else s.traceLog
        seq := 0x3#4 })
    ∧ (8 * s.len.toNat < s.pos.toNat + 112 →
      exec .decEth s = .next { s with result := 2#2, errStage := 0x2#4, seq := 0xA#4 })

/-- DEC_IPV4 is selected by STATE = 0x3. With POS + 160 at most 8*LEN it writes every field of its register from its
place in the table of R49, sets the valid bit, adds 160 to POS, emits the trace event when TRACE = 1, goes to the next
stage, and changes nothing else. Otherwise it raises BufferUnderrun with ERR_STAGE 0x3 and nothing else changes. (R75,
R49) -/
def Obligations.DecIpv4ReadsItsFieldsOrUnderruns : Prop :=
  decodeSequencer 0x3#4 = .ok .decIpv4 ∧ ∀ s : State,
    (s.pos.toNat + 160 ≤ 8 * s.len.toNat →
      exec .decIpv4 s = .next { s with
        hdr := { s.hdr with ipv4 := Ipv4Hdr.readFrom s.buf s.pos.toNat, vIpv4 := true }
        pos := BitVec.ofNat 19 (s.pos.toNat + 160)
        traceLog := if s.job.trace = 1#1 then s.traceLog ++ [.ipv4 (Ipv4Hdr.readFrom s.buf s.pos.toNat)] else s.traceLog
        seq := 0x4#4 })
    ∧ (8 * s.len.toNat < s.pos.toNat + 160 →
      exec .decIpv4 s = .next { s with result := 2#2, errStage := 0x3#4, seq := 0xA#4 })

/-- DEC_UDP is selected by STATE = 0x4. With POS + 64 at most 8*LEN it writes every field of its register from its
place in the table of R50, sets the valid bit, adds 64 to POS, emits the trace event when TRACE = 1, goes to the next
stage, and changes nothing else. Otherwise it raises BufferUnderrun with ERR_STAGE 0x4 and nothing else changes. (R76,
R50) -/
def Obligations.DecUdpReadsItsFieldsOrUnderruns : Prop :=
  decodeSequencer 0x4#4 = .ok .decUdp ∧ ∀ s : State,
    (s.pos.toNat + 64 ≤ 8 * s.len.toNat →
      exec .decUdp s = .next { s with
        hdr := { s.hdr with udp := UdpHdr.readFrom s.buf s.pos.toNat, vUdp := true }
        pos := BitVec.ofNat 19 (s.pos.toNat + 64)
        traceLog := if s.job.trace = 1#1 then s.traceLog ++ [.udp (UdpHdr.readFrom s.buf s.pos.toNat)] else s.traceLog
        seq := 0x5#4 })
    ∧ (8 * s.len.toNat < s.pos.toNat + 64 →
      exec .decUdp s = .next { s with result := 2#2, errStage := 0x4#4, seq := 0xA#4 })

/-- DEC_SHIM is selected by STATE = 0x5. With POS + 32 at most 8*LEN it writes every field of its register from its
place in the table of R51, sets the valid bit, adds 32 to POS, emits the trace event when TRACE = 1, goes to the next
stage, and changes nothing else. Otherwise it raises BufferUnderrun with ERR_STAGE 0x5 and nothing else changes. (R77,
R51) -/
def Obligations.DecShimReadsItsFieldsOrUnderruns : Prop :=
  decodeSequencer 0x5#4 = .ok .decShim ∧ ∀ s : State,
    (s.pos.toNat + 32 ≤ 8 * s.len.toNat →
      exec .decShim s = .next { s with
        hdr := { s.hdr with shim := ShimHdr.readFrom s.buf s.pos.toNat, vShim := true }
        pos := BitVec.ofNat 19 (s.pos.toNat + 32)
        traceLog := if s.job.trace = 1#1 then s.traceLog ++ [.shim (ShimHdr.readFrom s.buf s.pos.toNat)] else s.traceLog
        seq := 0x6#4 })
    ∧ (8 * s.len.toNat < s.pos.toNat + 32 →
      exec .decShim s = .next { s with result := 2#2, errStage := 0x5#4, seq := 0xA#4 })

/-- DEC_INTMETA is selected by STATE = 0x6. With POS + 64 at most 8*LEN it writes every field of HDR_INTMETA from its
place in the table of R52, sets V_INTMETA, adds 64 to POS, emits the trace event when TRACE = 1, and goes to HOP when
NT > 0; when NT = 0 it sets RESULT 1 and STATE DONE. Nothing else changes. Otherwise it raises BufferUnderrun with
ERR_STAGE 0x6. (R78, R52) -/
def Obligations.DecIntmetaReadsItsFieldsOrUnderruns : Prop :=
  decodeSequencer 0x6#4 = .ok .decIntmeta ∧ ∀ s : State,
    (s.pos.toNat + 64 ≤ 8 * s.len.toNat →
      exec .decIntmeta s = .next { s with
        hdr := { s.hdr with intmeta := IntmetaHdr.readFrom s.buf s.pos.toNat, vIntmeta := true }
        pos := BitVec.ofNat 19 (s.pos.toNat + 64)
        traceLog := if s.job.trace = 1#1 then s.traceLog ++ [.intmeta (IntmetaHdr.readFrom s.buf s.pos.toNat)] else s.traceLog
        result := if s.job.nt = 0#8 then 1#2 else s.result
        seq := if s.job.nt = 0#8 then 0x9#4 else 0x7#4 })
    ∧ (8 * s.len.toNat < s.pos.toNat + 64 →
      exec .decIntmeta s = .next { s with result := 2#2, errStage := 0x6#4, seq := 0xA#4 })

/-- DEC_HOP is selected by STATE = 0x7. For a job with FPH at least 8 (SUBMIT refuses less): with POS + 32*FPH at most
8*LEN it writes the eleven fields of HDR_HOP from the first 256 bits at POS, sets V_HOP, adds 32*FPH to POS, emits
Trace(HOP, HOP_IDX, HDR_HOP) when TRACE = 1, goes to ROUTE, and changes nothing else; otherwise it raises
BufferUnderrun with ERR_STAGE 0x7 and HDR_HOP, V_HOP, HOP_IDX and POS stay. (R80, R53) -/
def Obligations.DecHopReadsOneRecordOrUnderruns : Prop :=
  decodeSequencer 0x7#4 = .ok .decHop ∧ ∀ s : State, 8 ≤ s.job.fph.toNat →
    (s.pos.toNat + 32 * s.job.fph.toNat ≤ 8 * s.len.toNat →
      exec .decHop s = .next { s with
        hdr := { s.hdr with hop := HopRecord.readFrom s.buf s.pos.toNat, vHop := true }
        pos := BitVec.ofNat 19 (s.pos.toNat + 32 * s.job.fph.toNat)
        traceLog := if s.job.trace = 1#1 then s.traceLog ++ [.hop s.hopIdx (HopRecord.readFrom s.buf s.pos.toNat)]
          else s.traceLog
        seq := 0x8#4 })
    ∧ (8 * s.len.toNat < s.pos.toNat + 32 * s.job.fph.toNat →
      exec .decHop s = .next { s with result := 2#2, errStage := 0x7#4, seq := 0xA#4 })

/-- In a state no run reaches, with JOB_FPH below 8 and 256 bits left, DEC_HOP faults: the SKIP it would issue has a
negative width, which no request holds (the model own reading, log 12). With fewer than 256 bits left a READ of it
underruns in stage HOP. (42_perhop.md R79, 60_exceptions.md R106, notes/assumptions/12.md) -/
def Obligations.DecHopWithShortStrideFaults : Prop :=
  ∀ s : State, s.job.fph.toNat < 8 →
    (s.pos.toNat + 256 ≤ 8 * s.len.toNat → exec .decHop s = .fault .illegalCursorRequest)
    ∧ (8 * s.len.toNat < s.pos.toNat + 256 →
      exec .decHop s = .next { s with result := 2#2, errStage := 0x7#4, seq := 0xA#4 })

/-- The sink of a switch id is k exactly when all its 32 bits equal the id that owns k: 1, 2, 3 or 4. Every other id
has no sink. (R84) -/
def Obligations.RoutingMapIsTheFixedOne : Prop :=
  (∀ (sid : BitVec 32) (k : SinkId), sinkOf sid = some k ↔ sid = k.switchId)
  ∧ (∀ sid : BitVec 32, sinkOf sid = none ↔ sid ≠ 1#32 ∧ sid ≠ 2#32 ∧ sid ≠ 3#32 ∧ sid ≠ 4#32)
  ∧ [SinkId.sink1, .sink2, .sink3, .sink4].map SinkId.switchId = [1#32, 2#32, 3#32, 4#32]

/-- ROUTE is selected by STATE = 0x8. A switch_id of no sink: HOP_IDX + 1, then DONE with RESULT 1 if that is NT, else
HOP; no event. A sink that answers ok: the same, with the event (sink, sample, ok) appended to SINK_LOG. A sink that
answers fail: the event with its answer appended, RESULT 3, ERR_STAGE 8, FATAL, HOP_IDX kept. The sample is
hop_latency for KIND 0, else q_occupancy zero-extended. Nothing else of the core changes. Where the answer comes from
(sinkReply) and that it is used up (takeSinkReply) is the model own (log 3). Stated for HOP_IDX below NT, which every
run keeps. (43_demux.md R86, notes/assumptions/3.md) -/
def Obligations.RouteHandsOverOrDrops : Prop :=
  decodeSequencer 0x8#4 = .ok .route ∧ ∀ s : State, s.hopIdx.toNat < s.job.nt.toNat →
    let v : BitVec 32 := if s.job.kind = 0#1 then s.hdr.hop.hop_latency else s.hdr.hop.q_occupancy.setWidth 32
    let last : Bool := decide (s.hopIdx.toNat + 1 = s.job.nt.toNat)
    (sinkOf s.hdr.hop.switch_id = none →
      exec .route s = .next { s with
        hopIdx := s.hopIdx + 1
        result := if last then 1#2 else s.result
        seq := if last then 0x9#4 else 0x7#4 })
    ∧ (∀ k, sinkOf s.hdr.hop.switch_id = some k → s.sinkReply = .ok →
      exec .route s = .next { s with
        sinkLog := s.sinkLog ++ [⟨k, v, .ok⟩]
        env := s.env.takeSinkReply
        hopIdx := s.hopIdx + 1
        result := if last then 1#2 else s.result
        seq := if last then 0x9#4 else 0x7#4 })
    ∧ (∀ k, sinkOf s.hdr.hop.switch_id = some k → s.sinkReply = .fail →
      exec .route s = .next { s with
        sinkLog := s.sinkLog ++ [⟨k, v, .fail⟩]
        env := s.env.takeSinkReply
        result := 3#2
        errStage := 0x8#4
        seq := 0xB#4 })

/-- For KIND 0 the sample is the 32-bit hop_latency; for KIND 1 it is the 24-bit q_occupancy widened with zeros, so
below 2^24. The kind a step uses is the one latched for the job: ROUTE answers the same event whatever the
configuration registers hold. (R85) -/
def Obligations.SampleValueFollowsKind : Prop :=
  ∀ r : HopRecord, sampleValue 0#1 r = r.hop_latency
    ∧ sampleValue 1#1 r = r.q_occupancy.setWidth 32
    ∧ (sampleValue 1#1 r).toNat = r.q_occupancy.toNat ∧ (sampleValue 1#1 r).toNat < 2 ^ 24
    ∧ ∀ (s t : State) (c : CfgRegs), exec .route s = .next t →
      exec .route { s with cfg := c } = .next { t with cfg := c }

/-- A value that fits the field is written with the written bit set, in every STATE (of the operation itself; in a
reserved STATE the step faults before it, log 12), and nothing else changes; one that does not is refused
ReservedBitSet; the read-only and the reserved indexes are refused BadRegister. A refusal is a next state with the
core unchanged and the reason marked (log 7). (44_pipeline.md R95, 10_state.md R23, R24, 60_exceptions.md R105,
notes/assumptions/7.md, notes/assumptions/12.md) -/
def Obligations.CfgwWritesItsRegisterOrIsRefused : Prop :=
  ∀ (s : State) (x : BitVec 16),
    (x.toNat < 2 → exec (.cfgw .metricKind x) s = .next { s with cfg := { s.cfg with kind := x.setWidth 1, wKind := true } }
      ∧ exec (.cfgw .diagTrace x) s = .next { s with cfg := { s.cfg with trace := x.setWidth 1, wTrace := true } })
    ∧ (2 ≤ x.toNat → exec (.cfgw .metricKind x) s = .next (s.refuse .reservedBitSet)
      ∧ exec (.cfgw .diagTrace x) s = .next (s.refuse .reservedBitSet))
    ∧ (x.toNat < 256 →
      exec (.cfgw .fieldsPerHop x) s = .next { s with cfg := { s.cfg with fph := x.setWidth 8, wFph := true } }
      ∧ exec (.cfgw .numTransits x) s = .next { s with cfg := { s.cfg with nt := x.setWidth 8, wNt := true } })
    ∧ (256 ≤ x.toNat → exec (.cfgw .fieldsPerHop x) s = .next (s.refuse .reservedBitSet)
      ∧ exec (.cfgw .numTransits x) s = .next (s.refuse .reservedBitSet))
    ∧ (∀ r : RegSel, 4 ≤ r.code.toNat → exec (.cfgw r x) s = .next (s.refuse .badRegister))

/-- A written configuration register answers its field with zeros above; an unwritten one is refused ConfigUnwritten;
STATUS, POSITION and LENGTH answer in every STATE (of the operation itself; in a reserved STATE the step faults before
it, log 12); the reserved indexes are refused BadRegister. Only the answer history or the refusal mark changes (log
7). (44_pipeline.md R96, 10_state.md R23, R24, 60_exceptions.md R105, notes/assumptions/7.md, notes/assumptions/12.md)
-/
def Obligations.RdregAnswersTheRegisterOrIsRefused : Prop :=
  ∀ s : State,
    (exec (.rdreg .metricKind) s =
      .next (if s.cfg.wKind then s.answer (.regWord (0#31 ++ s.cfg.kind)) else s.refuse .configUnwritten))
    ∧ (exec (.rdreg .fieldsPerHop) s =
      .next (if s.cfg.wFph then s.answer (.regWord (0#24 ++ s.cfg.fph)) else s.refuse .configUnwritten))
    ∧ (exec (.rdreg .numTransits) s =
      .next (if s.cfg.wNt then s.answer (.regWord (0#24 ++ s.cfg.nt)) else s.refuse .configUnwritten))
    ∧ (exec (.rdreg .diagTrace) s =
      .next (if s.cfg.wTrace then s.answer (.regWord (0#31 ++ s.cfg.trace)) else s.refuse .configUnwritten))
    ∧ exec (.rdreg .status) s = .next (s.answer (.regWord s.statusWord))
    ∧ exec (.rdreg .position) s = .next (s.answer (.regWord (0#13 ++ s.pos)))
    ∧ exec (.rdreg .length) s = .next (s.answer (.regWord (0#16 ++ s.len)))
    ∧ ∀ i, exec (.rdreg (.reserved i)) s = .next (s.refuse .badRegister)

/-- Bits [3:0] of STATUS are STATE, [5:4] RESULT, [9:6] ERR_STAGE, [17:10] HOP_IDX, [18] CFG_READY (all four written
bits), [31:19] zero. (10_state.md R23) -/
def Obligations.StatusWordShowsItsFields : Prop :=
  ∀ s : State, s.statusWord.extractLsb' 0 4 = s.seq ∧ s.statusWord.extractLsb' 4 2 = s.result
    ∧ s.statusWord.extractLsb' 6 4 = s.errStage ∧ s.statusWord.extractLsb' 10 8 = s.hopIdx
    ∧ s.statusWord.getLsbD 18 = (s.cfg.wKind && s.cfg.wFph && s.cfg.wNt && s.cfg.wTrace)
    ∧ s.statusWord.extractLsb' 19 13 = 0#13

/-- When the core is ready (STATE IDLE, DONE or UNDERRUN), all four configuration registers are written, FPH is at
least 8, the length fits LEN and the byte channel carries that many bytes, SUBMIT completes: BUF and LEN hold the
payload, JOB_* the configuration, POS, HOP_IDX, RESULT and ERR_STAGE are 0, every valid bit is 0, STATE is REPORT; the
configuration and the logs stay. That the header fields, which have no value of the spec while their valid bits are 0,
stay as they were is the model choice (log 13), and so is that bytes beyond the length are dropped (log 9).
(44_pipeline.md R94, 10_state.md R19, notes/assumptions/9.md, notes/assumptions/13.md) -/
def Obligations.SubmitStartsAJob : Prop :=
  ∀ (s : State) (n : Nat), s.seq = Stage.idle ∨ s.seq = Stage.done ∨ s.seq = Stage.underrun →
    (s.cfg.wKind && s.cfg.wFph && s.cfg.wNt && s.cfg.wTrace) = true → 8 ≤ s.cfg.fph.toNat → n ≤ 65535 →
    n ≤ s.env.byteChannel.length →
    exec (.submit n) s = .next { s with
      buf := Memory.load (s.env.byteChannel.take n), len := BitVec.ofNat 16 n
      job := { kind := s.cfg.kind, fph := s.cfg.fph, nt := s.cfg.nt, trace := s.cfg.trace }
      pos := 0, hopIdx := 0, result := 0, errStage := 0
      hdr := { s.hdr with vReport := false, vEth := false, vIpv4 := false, vUdp := false, vShim := false,
                          vIntmeta := false, vHop := false }
      seq := 0x1#4, env := { s.env with byteChannel := [] } }

/-- In FATAL SUBMIT is refused SubmitAfterFatal whatever else holds. When ready with a configuration register
unwritten it is refused ConfigUnwritten; with all written and FPH below 8, FieldsPerHopTooSmall; with a length over
BUF_LEN_MAX, PayloadTooLong; last, with a byte channel shorter than the length, ShortByteChannel (the model own, log
9). Each refusal changes nothing but the mark (log 7). (60_exceptions.md R105, R107, 44_pipeline.md R94,
notes/assumptions/7.md, notes/assumptions/9.md) -/
def Obligations.SubmitRefusalsInOrder : Prop :=
  ∀ (s : State) (n : Nat),
    (s.seq = Stage.fatal → exec (.submit n) s = .next (s.refuse .submitAfterFatal))
    ∧ (s.seq = Stage.idle ∨ s.seq = Stage.done ∨ s.seq = Stage.underrun →
      (s.cfgReady = false → exec (.submit n) s = .next (s.refuse .configUnwritten))
      ∧ (s.cfgReady = true → s.cfg.fph.toNat < 8 → exec (.submit n) s = .next (s.refuse .fieldsPerHopTooSmall))
      ∧ (s.cfgReady = true → 8 ≤ s.cfg.fph.toNat → 65535 < n → exec (.submit n) s = .next (s.refuse .payloadTooLong))
      ∧ (s.cfgReady = true → 8 ≤ s.cfg.fph.toNat → n ≤ 65535 → s.env.byteChannel.length < n →
        exec (.submit n) s = .next (s.refuse .shortByteChannel)))

/-- While STATE is 0x1 to 0x8, SUBMIT changes nothing of the core: its length and bytes are held (log 8). A held
SUBMIT is taken by the first step from a STATE that is neither busy nor reserved, unless reset comes. While it is held
and the core is busy, the step is the core step: with nothing left in the script, with the core turn taken from the
script, or with the waiting host word left in it. (44_pipeline.md R94, 60_exceptions.md R105, 70_reset_and_hazards.md
R125, notes/assumptions/8.md, notes/assumptions/12.md) -/
def Obligations.BusyCoreHoldsSubmit : Prop :=
  (∀ (s : State) (n : Nat), 1 ≤ s.seq.toNat → s.seq.toNat ≤ 8 →
      exec (.submit n) s = .next { s with env := { s.env with held := some ⟨n, s.env.byteChannel⟩, byteChannel := [] } })
  ∧ (∀ (s : State) (h : HeldSubmit), s.env.held = some h → s.busy = false → s.seq.toNat < 12 →
      (∀ rest, s.env.script ≠ .resetInput :: rest) →
      step s = exec (.submit h.len) { s with env := { s.env with held := none, byteChannel := h.bytes } })
  ∧ (∀ (s : State) (h : HeldSubmit), s.env.held = some h → s.busy = true →
      (s.env.script = [] → step s = coreStep s)
      ∧ (∀ rest, s.env.script = .coreTurn :: rest → step s = coreStep { s with env := { s.env with script := rest } })
      ∧ (∀ w bytes rest, s.env.script = .command w bytes :: rest → step s = coreStep s))

/-- For each header, RDHDR answers the register when its valid bit is 1 and nothing when it is 0; a reserved selector
is refused BadHeader. Nothing of the core changes. (44_pipeline.md R97, 10_state.md R22, 60_exceptions.md R105,
notes/assumptions/7.md) -/
def Obligations.RdhdrAnswersFieldsOnlyWhenValid : Prop :=
  ∀ s : State,
    exec (.rdhdr .report) s = .next (s.answer (.header (if s.hdr.vReport then some (.report s.hdr.report) else none)))
    ∧ exec (.rdhdr .eth) s = .next (s.answer (.header (if s.hdr.vEth then some (.eth s.hdr.eth) else none)))
    ∧ exec (.rdhdr .ipv4) s = .next (s.answer (.header (if s.hdr.vIpv4 then some (.ipv4 s.hdr.ipv4) else none)))
    ∧ exec (.rdhdr .udp) s = .next (s.answer (.header (if s.hdr.vUdp then some (.udp s.hdr.udp) else none)))
    ∧ exec (.rdhdr .shim) s = .next (s.answer (.header (if s.hdr.vShim then some (.shim s.hdr.shim) else none)))
    ∧ exec (.rdhdr .intmeta) s = .next (s.answer (.header (if s.hdr.vIntmeta then some (.intmeta s.hdr.intmeta) else none)))
    ∧ exec (.rdhdr .hop) s = .next (s.answer (.header (if s.hdr.vHop then some (.hop s.hdr.hop) else none)))
    ∧ ∀ i, exec (.rdhdr (.reserved i)) s = .next (s.refuse .badHeader)

/-- For each of the six headers and the record, the fields decoded at stream position b, laid out in table order most
significant bit first, are the stream bits from b on, span after span: no bit is dropped, doubled or moved.
(44_pipeline.md R97, 30_encoding.md R46 to R54, notes/assumptions/16.md) -/
def Obligations.HeaderPortBitsAreTheStreamBits : Prop :=
  ∀ (m : Memory) (b : Nat),
    (ReportHdr.readFrom m b).bits = (List.range 128).map (fun i => streamBit m (b + i))
    ∧ (EthHdr.readFrom m b).bits = (List.range 112).map (fun i => streamBit m (b + i))
    ∧ (Ipv4Hdr.readFrom m b).bits = (List.range 160).map (fun i => streamBit m (b + i))
    ∧ (UdpHdr.readFrom m b).bits = (List.range 64).map (fun i => streamBit m (b + i))
    ∧ (ShimHdr.readFrom m b).bits = (List.range 32).map (fun i => streamBit m (b + i))
    ∧ (IntmetaHdr.readFrom m b).bits = (List.range 64).map (fun i => streamBit m (b + i))
    ∧ (HopRecord.readFrom m b).bits = (List.range 256).map (fun i => streamBit m (b + i))

/-- When the host sends a word that does not decode, no SUBMIT is held and STATE is no reserved code (log 12), the
step leaves the core as it is and marks the run refused with IllegalWord, before any other check. (60_exceptions.md
R105, R107, 30_encoding.md R59, notes/assumptions/7.md, notes/assumptions/12.md) -/
def Obligations.IllegalHostWordIsRefused : Prop :=
  ∀ (s : State) (w : Word) (bytes : List Byte) (rest : List ScriptEvent) (r : Reject), s.seq.toNat < 12 → s.env.held = none →
    s.env.script = .command w bytes :: rest → decodeHost w = .error r →
    step s = .next { s with
      env := { s.env with script := rest, byteChannel := bytes, refusals := s.env.refusals ++ [.illegalWord] } }

/-- For every operation, if its next state carries a refusal mark that the state before did not, then the two states
differ in exactly one appended reason and nothing else. (60_exceptions.md R105, 10_state.md R24,
notes/assumptions/7.md) -/
def Obligations.RefusedCommandChangesNoCoreState : Prop :=
  ∀ (i : Instr) (s t : State), exec i s = .next t → t.env.refusals ≠ s.env.refusals →
    ∃ r, t = { s with env := { s.env with refusals := s.env.refusals ++ [r] } }

/-- State.reset: STATE IDLE, RESULT, ERR_STAGE, HOP_IDX, POS and LEN 0, BUF empty, the four written bits 0, the seven
valid bits 0. (Values where the spec says no value are the model choice, log 4, and are not stated here.) (10_state.md
R27, 70_reset_and_hazards.md R118) -/
def Obligations.ResetStateHoldsTheStatedValues : Prop :=
  State.reset.seq = 0x0#4 ∧ State.reset.result = 0#2 ∧ State.reset.errStage = 0#4 ∧ State.reset.hopIdx = 0#8
  ∧ State.reset.pos = 0#19 ∧ State.reset.len = 0#16 ∧ State.reset.buf = []
  ∧ State.reset.cfg.wKind = false ∧ State.reset.cfg.wFph = false ∧ State.reset.cfg.wNt = false
  ∧ State.reset.cfg.wTrace = false ∧ State.reset.hdr.vReport = false ∧ State.reset.hdr.vEth = false
  ∧ State.reset.hdr.vIpv4 = false ∧ State.reset.hdr.vUdp = false ∧ State.reset.hdr.vShim = false
  ∧ State.reset.hdr.vIntmeta = false ∧ State.reset.hdr.vHop = false

/-- When reset is the next input the step is the reset action, whatever STATE is and whether or not a SUBMIT is held:
the core part is that of the reset state, SINK_LOG and TRACE_LOG are kept, no SUBMIT is held. The registers to which
R27 gives no value (the CFG_* fields, JOB_*, the header fields) get the zeros the model chose (log 4); that the byte
channel is emptied and the rest of the environment (script, sink answers, answers, refusal marks) stands is the model
choice too (log 5). (70_reset_and_hazards.md R118, R119, 10_state.md R27, 60_exceptions.md R107,
notes/assumptions/4.md, notes/assumptions/5.md) -/
def Obligations.ResetOverridesEverything : Prop :=
  ∀ (s : State) (rest : List ScriptEvent), s.env.script = .resetInput :: rest →
    step s = .next { State.reset with
      sinkLog := s.sinkLog, traceLog := s.traceLog
      env := { s.env with script := rest, held := none, byteChannel := [] } }

/-- The invariant (R26 with the relations of R15, R20 and R21 beside it, FPH at least 8 outside IDLE, BUF canonical)
holds of State.reset. (10_state.md R26, R27) -/
def Obligations.ResetSatisfiesInvariant : Prop :=
  Inv State.reset

/-- From every state that satisfies the invariant, reachable or not, whatever agent acts and whatever the sink
answers, a next state satisfies it again: POS at the start of its stage, byte-aligned and inside the buffer; valid
bits exactly those decoded; HOP_IDX at most NT; STATE never reserved; RESULT and ERR_STAGE as STATE says; BUF
canonical. The invariant includes that no request is placed at the BitCursor port directly (R55). (10_state.md R26,
10_state.md R15, R17, R20, R21, 42_perhop.md R79) -/
def Obligations.StepKeepsInvariant : Prop :=
  ∀ s t : State, Inv s → step s = .next t → Inv t

/-- From every state that satisfies the invariant the step answers a next state, never a fault or a refusal; so the
faults of R106 are never reached, and no sink answer or command stops the machine. That a turn in IDLE, DONE, UNDERRUN
or FATAL and a refused command answer a next state is the model choice (log 2, log 7). (44_pipeline.md R92,
60_exceptions.md R106, 10_state.md R26, notes/assumptions/2.md, notes/assumptions/7.md) -/
def Obligations.InvariantStatesNeverStop : Prop :=
  ∀ s : State, Inv s → (∃ t, step s = .next t) ∧ ∃ t, coreStep s = .next t

/-- Run the machine any number of steps from reset, with any script of commands, resets and core turns (no direct
cursor request, R55) and any sink answers: POS is at most 8*LEN; POS is the start of the stage that runs, or of the
span that did not fit; POS is a multiple of 8; the valid bits are those of the headers decoded so far in the job;
HOP_IDX is at most NT; STATE is no reserved code. The spec marks R26 as its own inference: "[derived: from rule R27,
rule R94 and the step rules]". (10_state.md R26 (the inference of the spec itself)) -/
def Obligations.RunsFromResetKeepR26 : Prop :=
  ∀ (e : Env) (n : Nat) (t : State), ({ State.reset with env := e } : State).noDirectRequest = true →
    Sys2Proof.core.run n ({ State.reset with env := e } : State) = .next t →
    t.pos.toNat ≤ 8 * t.len.toNat
    ∧ ((t.seq = Stage.report → t.pos.toNat = 0) ∧ (t.seq = Stage.eth → t.pos.toNat = 128)
      ∧ (t.seq = Stage.ipv4 → t.pos.toNat = 240) ∧ (t.seq = Stage.udp → t.pos.toNat = 400)
      ∧ (t.seq = Stage.shim → t.pos.toNat = 464) ∧ (t.seq = Stage.intmeta → t.pos.toNat = 496)
      ∧ (t.seq = Stage.hop → t.pos.toNat = 560 + 32 * t.job.fph.toNat * t.hopIdx.toNat)
      ∧ (t.seq = Stage.route → t.pos.toNat = 560 + 32 * t.job.fph.toNat * (t.hopIdx.toNat + 1))
      ∧ (t.seq = Stage.underrun → t.pos.toNat = t.stageStart t.errStage.toNat
        ∧ 8 * t.len.toNat < t.pos.toNat + t.stageSpan t.errStage.toNat))
    ∧ t.pos.toNat % 8 = 0
    ∧ ValidBitsMatch t
    ∧ t.hopIdx.toNat ≤ t.job.nt.toNat
    ∧ t.seq.toNat < 12

/-- A core step moves STATE along the row R91 gives it (State.coreRow; ROUTE goes to FATAL exactly when a sink owns
the record and answers fail), or STATE is IDLE, DONE, UNDERRUN or FATAL and nothing changes (the model stutter, log
2). From the invariant (so with no direct cursor request, log 10) every step of the machine is one of four: the reset
input, to IDLE; a SUBMIT, sent or held, taken in IDLE, DONE or UNDERRUN, to REPORT; a core step along its row; or a
step that changes nothing but the configuration and the environment. No other transition exists. (44_pipeline.md R91,
notes/assumptions/2.md, notes/assumptions/10.md) -/
def Obligations.CoreTransitionsAreTheTable : Prop :=
  (∀ s t : State, coreStep s = .next t →
      s.coreRow t.seq ∨ ((s.seq = Stage.idle ∨ s.seq = Stage.done ∨ s.seq = Stage.underrun ∨ s.seq = Stage.fatal) ∧ t = s))
  ∧ (∀ s t : State, Inv s → step s = .next t →
      (∃ rest, s.env.script = .resetInput :: rest ∧ t.seq = Stage.idle)
      ∨ ((s.seq = Stage.idle ∨ s.seq = Stage.done ∨ s.seq = Stage.underrun) ∧ t.seq = Stage.report
        ∧ ∃ n, (∃ e, exec (.submit n) { s with env := e } = .next t)
          ∧ ((∃ bytes, s.env.held = some ⟨n, bytes⟩)
            ∨ ∃ w bytes rest, s.env.script = .command w bytes :: rest ∧ decodeHost w = .ok (.submit n)))
      ∨ (s.coreRow t.seq ∧ ∃ l, coreStep { s with env := { s.env with script := l } } = .next t)
      ∨ t = { s with cfg := t.cfg, env := t.env })

/-- Whenever an operation answers a next state: BUF, LEN and JOB_* change only by SUBMIT; the configuration only by
CFGW; each header register and its valid bit only by its own decoder, but that a SUBMIT leaves the header registers as
they are (held or refused) or clears every valid bit (that it keeps the fields is the model choice, log 13); SINK_LOG
only by ROUTE; TRACE_LOG only by a decoder; HOP_IDX only by ROUTE and SUBMIT; POS only by READ, SKIP, the decoders and
SUBMIT; CFGW, RDREG and RDHDR keep STATE, RESULT, ERR_STAGE and everything but the configuration and the environment.
(20_memory.md R35, R43, 10_state.md R16, R19, R22, R25, 44_pipeline.md R94, R95, notes/assumptions/13.md) -/
def Obligations.EveryOperationKeepsItsFrame : Prop :=
  ∀ (i : Instr) (s t : State), exec i s = .next t →
    ((∀ n, i ≠ .submit n) → t.buf = s.buf ∧ t.len = s.len ∧ t.job = s.job)
    ∧ ((∀ r x, i ≠ .cfgw r x) → t.cfg = s.cfg)
    ∧ ((∀ n, i ≠ .submit n) → t.hdr = { t.hdr with
          vReport := s.hdr.vReport || t.hdr.vReport, vEth := s.hdr.vEth || t.hdr.vEth, vIpv4 := s.hdr.vIpv4 || t.hdr.vIpv4,
          vUdp := s.hdr.vUdp || t.hdr.vUdp, vShim := s.hdr.vShim || t.hdr.vShim,
          vIntmeta := s.hdr.vIntmeta || t.hdr.vIntmeta, vHop := s.hdr.vHop || t.hdr.vHop })
    ∧ (∀ n, i = .submit n → t.hdr = s.hdr ∨ t.hdr = { s.hdr with vReport := false, vEth := false, vIpv4 := false, vUdp := false, vShim := false, vIntmeta := false, vHop := false })
    ∧ (i ≠ .decReport → t.hdr.report = s.hdr.report ∧ ((∀ n, i ≠ .submit n) → t.hdr.vReport = s.hdr.vReport))
    ∧ (i ≠ .decEth → t.hdr.eth = s.hdr.eth ∧ ((∀ n, i ≠ .submit n) → t.hdr.vEth = s.hdr.vEth))
    ∧ (i ≠ .decIpv4 → t.hdr.ipv4 = s.hdr.ipv4 ∧ ((∀ n, i ≠ .submit n) → t.hdr.vIpv4 = s.hdr.vIpv4))
    ∧ (i ≠ .decUdp → t.hdr.udp = s.hdr.udp ∧ ((∀ n, i ≠ .submit n) → t.hdr.vUdp = s.hdr.vUdp))
    ∧ (i ≠ .decShim → t.hdr.shim = s.hdr.shim ∧ ((∀ n, i ≠ .submit n) → t.hdr.vShim = s.hdr.vShim))
    ∧ (i ≠ .decIntmeta → t.hdr.intmeta = s.hdr.intmeta ∧ ((∀ n, i ≠ .submit n) → t.hdr.vIntmeta = s.hdr.vIntmeta))
    ∧ (i ≠ .decHop → t.hdr.hop = s.hdr.hop ∧ ((∀ n, i ≠ .submit n) → t.hdr.vHop = s.hdr.vHop))
    ∧ (i ≠ .route → t.sinkLog = s.sinkLog)
    ∧ (i ≠ .decReport → i ≠ .decEth → i ≠ .decIpv4 → i ≠ .decUdp → i ≠ .decShim → i ≠ .decIntmeta → i ≠ .decHop →
        t.traceLog = s.traceLog)
    ∧ (i ≠ .route → (∀ n, i ≠ .submit n) → t.hopIdx = s.hopIdx)
    ∧ (i = .route ∨ (∃ r x, i = .cfgw r x) ∨ (∃ r, i = .rdreg r) ∨ (∃ h, i = .rdhdr h) → t.pos = s.pos)
    ∧ ((∃ r x, i = .cfgw r x) ∨ (∃ r, i = .rdreg r) ∨ (∃ h, i = .rdhdr h) →
        t = { s with cfg := t.cfg, env := t.env })

/-- Whenever a step answers a next state, SINK_LOG and TRACE_LOG before it are the beginnings of those after it.
(10_state.md R25, 70_reset_and_hazards.md R118) -/
def Obligations.LogsOnlyGrow : Prop :=
  ∀ s t : State, step s = .next t → s.sinkLog <+: t.sinkLog ∧ s.traceLog <+: t.traceLog

/-- The property holds at reset and every step keeps it; so the trace event of a record comes before its sink event,
which only ROUTE emits. (43_demux.md R90, 70_reset_and_hazards.md R126) -/
def Obligations.RecordIsTracedBeforeItIsRouted : Prop :=
  RecordTraced State.reset ∧ ∀ s t : State, RecordTraced s → step s = .next t → RecordTraced t

/-- From every state that satisfies the invariant and in which each valid header register equals the fields at its
fixed place in BUF (record k at 560 + 32*FPH*k), every next state is such a state again. (44_pipeline.md R97,
30_encoding.md R54, 20_memory.md R36) -/
def Obligations.StepKeepsHeadersEqualToPayload : Prop :=
  HeadersMatchPayload State.reset
  ∧ ∀ s t : State, Inv s → HeadersMatchPayload s → step s = .next t → HeadersMatchPayload t

/-- In FATAL SUBMIT is refused SubmitAfterFatal, sent by the host or held, and the refusal changes only the
environment (log 7). With no direct cursor request in the script (log 10) a step from FATAL that is not the reset
input changes nothing but the configuration (CFGW still works) and the environment: STATE stays FATAL and no sink or
trace event is added. The reset input leaves it, to IDLE. (60_exceptions.md R104, 70_reset_and_hazards.md R119,
44_pipeline.md R94, notes/assumptions/7.md, notes/assumptions/10.md) -/
def Obligations.FatalIsLeftOnlyByReset : Prop :=
  ∀ s : State, s.seq = Stage.fatal →
    (∀ n, exec (.submit n) s = .next (s.refuse .submitAfterFatal))
    ∧ (∀ w bytes rest n, s.env.held = none → s.env.script = .command w bytes :: rest → decodeHost w = .ok (.submit n) →
        ∃ t, step s = .next t ∧ t = { s with env := t.env }
          ∧ t.env.refusals = s.env.refusals ++ [.submitAfterFatal])
    ∧ (∀ h, s.env.held = some h → (∀ rest, s.env.script ≠ .resetInput :: rest) →
        ∃ t, step s = .next t ∧ t = { s with env := t.env } ∧ t.env.held = none
          ∧ t.env.refusals = s.env.refusals ++ [.submitAfterFatal])
    ∧ (∀ t, s.noDirectRequest = true → (∀ rest, s.env.script ≠ .resetInput :: rest) → step s = .next t →
        t = { s with cfg := t.cfg, env := t.env })
    ∧ (∀ rest, s.env.script = .resetInput :: rest → ∃ t, step s = .next t ∧ t.seq = Stage.idle)

/-- If the core steps from s to t then from s with any other configuration registers it steps to t with those
registers: a CFGW while a job runs cannot change the job. (10_state.md R19, 70_reset_and_hazards.md R123) -/
def Obligations.RunningJobIgnoresConfiguration : Prop :=
  ∀ (s t : State) (c : CfgRegs), coreStep s = .next t → coreStep { s with cfg := c } = .next { t with cfg := c }

/-- If the core steps from s to t then with the other value of the latched TRACE and any trace log it steps to the
same t, but for that TRACE and the trace log; with TRACE = 0 the trace log stays as it was. (43_demux.md R90) -/
def Obligations.TracingNeverSteers : Prop :=
  ∀ (s t : State) (b : BitVec 1) (l : List TraceEvent), coreStep s = .next t →
    ∃ l', coreStep { s with job := { s.job with trace := b }, traceLog := l } =
        .next { t with job := { t.job with trace := b }, traceLog := l' }
      ∧ (b ≠ 1#1 → l' = l)

/-- From a state as SUBMIT leaves it, with nothing more from outside: within 6 + 2*NT steps the machine is in DONE,
UNDERRUN or FATAL, whatever the sink answers, and stays there (every further step of the model changes nothing, log
2); and it is never in DONE after fewer than 6 + 2*NT steps. The spec marks R93 as its own inference: "[derived: from
rule R91 and rule R92]". (44_pipeline.md R93 (the inference of the spec itself), notes/assumptions/2.md) -/
def Obligations.JobEndsWithinItsStepBound : Prop :=
  ∀ s : State, s.atJobStart = true → s.env.script = [] → s.env.held = none →
    (∃ k t, k ≤ 6 + 2 * s.job.nt.toNat ∧ Sys2Proof.core.run k s = .next t
      ∧ (t.seq = Stage.done ∨ t.seq = Stage.underrun ∨ t.seq = Stage.fatal)
      ∧ ∀ n, Sys2Proof.core.run (k + n) s = .next t)
    ∧ ∀ k t, Sys2Proof.core.run k s = .next t → t.seq = Stage.done → 6 + 2 * s.job.nt.toNat ≤ k

/-- From a state as SUBMIT leaves it, with nothing more from outside, after 6 + 2*NT steps or more the state is the
one the job function gives from the payload, the latched configuration and the sink answers: STATE, RESULT, ERR_STAGE,
HOP_IDX, POS, the header registers and the events added to SINK_LOG and TRACE_LOG; nothing else changes but the
answers used up. The model choices in it: steps after the end change nothing (log 2), where the answers come from and
that they are used up (log 3), and that the fields of a header not decoded stay (log 13). (44_pipeline.md R98, R99,
42_perhop.md R81, R82, notes/assumptions/2.md, notes/assumptions/3.md, notes/assumptions/13.md) -/
def Obligations.JobStepsComputeTheJobFunction : Prop :=
  ∀ (s : State) (k : Nat), s.atJobStart = true → s.env.script = [] → s.env.held = none → 6 + 2 * s.job.nt.toNat ≤ k →
    Sys2Proof.core.run k s = .next (s.afterJob (jobRun s.jobInput s.sinkReplyAt s.hdr))

/-- Two payloads that agree on the bytes 0 to 69 and on the first 32 bytes of every stride, as far as they lie below
LEN, give the same job; and so do two lengths that both hold all the job consumes: skipped and trailing bytes never
matter. Said of the job function, and of the machine: from a state as SUBMIT leaves it, with nothing more from
outside, the run to the end with the other payload or length gives the same state but for BUF and LEN
(JobStepsComputeTheJobFunction, O53, ties the two; steps after the end change nothing, log 2). (44_pipeline.md R98,
20_memory.md R37, 93_implementation_defined.md I2, I3, notes/assumptions/2.md) -/
def Obligations.JobDependsOnlyOnTheBytesItDecodes : Prop :=
  (∀ (j : JobInput) (m : Memory) (n : Nat) (answers : Nat → SinkAnswer) (h : HdrRegs), 8 ≤ j.fph →
    (∀ a, a < 70 → a < j.len → m.read a = j.buf.read a) →
    (∀ i a, i < j.nt → a < 32 → 70 + 4 * j.fph * i + a < j.len →
      m.read (70 + 4 * j.fph * i + a) = j.buf.read (70 + 4 * j.fph * i + a)) →
    (n = j.len ∨ (70 + 4 * j.fph * j.nt ≤ j.len ∧ 70 + 4 * j.fph * j.nt ≤ n)) →
    jobRun { j with buf := m, len := n } answers h = jobRun j answers h)
  ∧ (∀ (s t : State) (m : Memory) (n : BitVec 16) (k : Nat), s.atJobStart = true → s.env.script = [] → s.env.held = none →
    (∀ a, a < 70 → a < s.len.toNat → m.read a = s.buf.read a) →
    (∀ i a, i < s.job.nt.toNat → a < 32 → 70 + 4 * s.job.fph.toNat * i + a < s.len.toNat →
      m.read (70 + 4 * s.job.fph.toNat * i + a) = s.buf.read (70 + 4 * s.job.fph.toNat * i + a)) →
    (n = s.len ∨ (70 + 4 * s.job.fph.toNat * s.job.nt.toNat ≤ s.len.toNat
      ∧ 70 + 4 * s.job.fph.toNat * s.job.nt.toNat ≤ n.toNat)) →
    6 + 2 * s.job.nt.toNat ≤ k → Sys2Proof.core.run k s = .next t →
    Sys2Proof.core.run k ({ s with buf := m, len := n } : State) = .next ({ t with buf := m, len := n } : State))

/-- A job run to its end underruns in REPORT when LEN < 16, ETH below 30, IPV4 below 50, UDP below 58, SHIM below 62,
INTMETA below 70, with POS 0, 128, 240, 400, 464, 496; at record i when 70 + 4*FPH*i <= LEN < 70 + 4*FPH*(i+1) with i
< NT, with POS 560 + 32*FPH*i and HOP_IDX i, unless a sink failed before; and never when LEN holds all records. A job
that ends early is run out on steps that change nothing, the model choice (log 2). The spec marks R103 as its own
inference: "[derived: from the step rules and rule R36]". (60_exceptions.md R103 (the inference of the spec itself),
notes/assumptions/2.md) -/
def Obligations.UnderrunThresholdsByLength : Prop :=
  ∀ s t : State, s.atJobStart = true → s.env.script = [] → s.env.held = none →
    Sys2Proof.core.run (6 + 2 * s.job.nt.toNat) s = .next t →
    (s.len.toNat < 16 → t.seq = Stage.underrun ∧ t.errStage = 0x1#4 ∧ t.pos.toNat = 0)
    ∧ (16 ≤ s.len.toNat → s.len.toNat < 30 → t.seq = Stage.underrun ∧ t.errStage = 0x2#4 ∧ t.pos.toNat = 128)
    ∧ (30 ≤ s.len.toNat → s.len.toNat < 50 → t.seq = Stage.underrun ∧ t.errStage = 0x3#4 ∧ t.pos.toNat = 240)
    ∧ (50 ≤ s.len.toNat → s.len.toNat < 58 → t.seq = Stage.underrun ∧ t.errStage = 0x4#4 ∧ t.pos.toNat = 400)
    ∧ (58 ≤ s.len.toNat → s.len.toNat < 62 → t.seq = Stage.underrun ∧ t.errStage = 0x5#4 ∧ t.pos.toNat = 464)
    ∧ (62 ≤ s.len.toNat → s.len.toNat < 70 → t.seq = Stage.underrun ∧ t.errStage = 0x6#4 ∧ t.pos.toNat = 496)
    ∧ (∀ i, i < s.job.nt.toNat → 70 + 4 * s.job.fph.toNat * i ≤ s.len.toNat →
        s.len.toNat < 70 + 4 * s.job.fph.toNat * (i + 1) → t.seq ≠ Stage.fatal →
        t.seq = Stage.underrun ∧ t.errStage = 0x7#4 ∧ t.hopIdx.toNat = i
          ∧ t.pos.toNat = 560 + 32 * s.job.fph.toNat * i)
    ∧ (70 + 4 * s.job.fph.toNat * s.job.nt.toNat ≤ s.len.toNat → t.seq ≠ Stage.underrun)

/-- From every busy state of the invariant with a good configuration, a SUBMIT sent with its bytes is held, and within
6 + 2*NT core steps the running job ends (state v) as it would have alone, its BUF and LEN untouched and the SUBMIT
still held. Unless it ended in FATAL, the next step starts the held job on its own payload, and 6 + 2*NT steps of that
job later the machine is in the state the job function gives for it; after FATAL the next step refuses it
SubmitAfterFatal. That the host word waits so and is checked when taken is log 8; the rest of the end states rests on
logs 2, 3 and 13 as O53 does. (70_reset_and_hazards.md R125, 44_pipeline.md R93, R94, R98, 60_exceptions.md R104,
notes/assumptions/2.md, notes/assumptions/3.md, notes/assumptions/8.md, notes/assumptions/13.md) -/
def Obligations.HeldSubmitStartsTheNextJob : Prop :=
  ∀ (s : State) (w : Word) (bytes : List Byte) (n : Nat), Inv s → s.busy = true → s.env.held = none →
    s.env.script = [.command w bytes] → decodeHost w = .ok (.submit n) → n ≤ bytes.length → s.cfgReady = true →
    8 ≤ s.cfg.fph.toNat →
    ∃ (k : Nat) (v : State), k ≤ 6 + 2 * s.job.nt.toNat
      ∧ Sys2Proof.core.run k ({ s with env := { s.env with script := [], byteChannel := [] } } : State) = .next v
      ∧ Sys2Proof.core.run (1 + k) s = .next ({ v with env := { v.env with held := some ⟨n, bytes⟩ } } : State)
      ∧ (v.seq = Stage.done ∨ v.seq = Stage.underrun ∨ v.seq = Stage.fatal) ∧ v.buf = s.buf ∧ v.len = s.len
      ∧ (v.seq = Stage.fatal → Sys2Proof.core.run (1 + k + 1) s =
          .next (({ v with env := { v.env with byteChannel := bytes } } : State).refuse .submitAfterFatal))
      ∧ (v.seq ≠ Stage.fatal →
          let u := v.startJob n (bytes.take n)
          Sys2Proof.core.run (1 + k + 1) s = .next u
          ∧ Sys2Proof.core.run (1 + k + 1 + (6 + 2 * u.job.nt.toNat)) s =
            .next (u.afterJob (jobRun u.jobInput u.sinkReplyAt u.hdr)))

/-- CONFIG kind, fph, nt, trace, with values of 16 bits, expands to exactly four host words: CFGW METRIC_KIND (SEL 0),
FIELDS_PER_HOP (SEL 1), NUM_TRANSITS (SEL 2), DIAG_TRACE (SEL 3), each with its value in IMM and no bytes. For kind
and trace below 2 and the other two below 256, no SUBMIT held and STATE not reserved (log 12), the four steps that
take these words leave the four registers with the values and their written bits set, and nothing else of the core
changed. (30_encoding.md R56, R62, 44_pipeline.md R95, notes/assumptions/12.md) -/
def Obligations.ConfigWritesAllFourRegisters : Prop :=
  (∀ k f n t : Nat, k < 65536 → f < 65536 → n < 65536 → t < 65536 →
    AsmLine.expand (.config k f n t) = some [
      .command (1#4 ++ 0#4 ++ 0#8 ++ BitVec.ofNat 16 k) [], .command (1#4 ++ 1#4 ++ 0#8 ++ BitVec.ofNat 16 f) [],
      .command (1#4 ++ 2#4 ++ 0#8 ++ BitVec.ofNat 16 n) [], .command (1#4 ++ 3#4 ++ 0#8 ++ BitVec.ofNat 16 t) []])
  ∧ (∀ (s : State) (k f n t : Nat) (script : List ScriptEvent), k < 2 → f < 256 → n < 256 → t < 2 → s.env.held = none →
    s.seq.toNat < 12 → AsmLine.expand (.config k f n t) = some script → s.env.script = script →
    Sys2Proof.core.run 4 s = .next { s with
        cfg := { kind := BitVec.ofNat 1 k, fph := BitVec.ofNat 8 f, nt := BitVec.ofNat 8 n, trace := BitVec.ofNat 1 t,
                 wKind := true, wFph := true, wNt := true, wTrace := true }
        env := { s.env with script := [], byteChannel := [] } })
end

