-- ==== Sys2Proof/Laws/Cursor.lean ====
section
/-! SUPPORT. The BitCursor: what a run of READs gives (the values at their offsets and the last position), the span check, and the sequential decoders against the offset tables. -/

namespace Sys2Proof.Machine

variable {s : State} {p w : Nat}

theorem bitsAt_lt (m : Memory) (p w : Nat) : bitsAt m p w < 2 ^ w := by
  induction w with
  | zero => simp [bitsAt]
  | succ w ih =>
    have : (streamBit m (p + w)).toNat ≤ 1 := by cases streamBit m (p + w) <;> simp
    simp only [bitsAt, Nat.pow_succ]; omega

/-- A field is its first part, shifted, and its second part. -/
theorem bitsAt_add (m : Memory) (p v w : Nat) : bitsAt m p (v + w) = 2 ^ w * bitsAt m p v + bitsAt m (p + v) w := by
  induction w with
  | zero => simp [bitsAt]
  | succ w ih =>
    rw [← Nat.add_assoc, bitsAt, ih, bitsAt, Nat.pow_succ, Nat.add_assoc]; ring

/-- Bit j of a field, counted from its first, is stream bit p + j. -/
theorem bitsAt_testBit (m : Memory) (p w j : Nat) (h : j < w) :
    (bitsAt m p w).testBit (w - 1 - j) = streamBit m (p + j) := by
  induction w with
  | zero => omega
  | succ w ih =>
    rw [bitsAt]
    by_cases hj : j = w
    · subst hj
      rw [show j + 1 - 1 - j = 0 by omega]
      cases streamBit m (p + j) <;> simp
    · rw [show w + 1 - 1 - j = (w - 1 - j) + 1 by omega, Nat.testBit_succ,
        show (2 * bitsAt m p w + (streamBit m (p + w)).toNat) / 2 = bitsAt m p w by
          cases streamBit m (p + w)
          · simp
          · simp only [Bool.toNat_true]; omega]
      exact ih (by omega)

theorem readAt_fits (h : p + w ≤ s.streamLen) : readAt s p w = some (bitsAt s.buf p w, p + w) := by
  simp [readAt, Nat.not_lt.mpr h]

theorem readAt_short (h : s.streamLen < p + w) : readAt s p w = none := by simp [readAt, h]

theorem skipAt_fits (h : p + w ≤ s.streamLen) : skipAt s p w = some (p + w) := by simp [skipAt, Nat.not_lt.mpr h]

theorem skipAt_short (h : s.streamLen < p + w) : skipAt s p w = none := by simp [skipAt, h]

/-- The values of consecutive fields of widths `ws` from position p. -/
def fieldValues (m : Memory) (p : Nat) : List Nat → List Nat
  | [] => []
  | w :: ws => bitsAt m p w :: fieldValues m (p + w) ws

/-- READs in a span that fits never underrun, and give the fields and the span's end. -/
theorem readFields_fits (ws : List Nat) : ∀ p, p + ws.sum ≤ s.streamLen →
    readFields s p ws = some (fieldValues s.buf p ws, p + ws.sum) := by
  induction ws with
  | nil => intro p _; rfl
  | cons w ws ih =>
    intro p h
    simp only [List.sum_cons] at h
    simp only [readFields, readAt_fits (show p + w ≤ s.streamLen by omega), ih (p + w) (by omega), fieldValues,
      List.sum_cons, Nat.add_assoc]

/-- READs whose span passes the end underrun, from a position inside the buffer. -/
theorem readFields_short (ws : List Nat) : ∀ p, s.streamLen < p + ws.sum → p ≤ s.streamLen →
    readFields s p ws = none := by
  induction ws with
  | nil => intro p h h'; simp at h; omega
  | cons w ws ih =>
    intro p h _
    simp only [List.sum_cons] at h
    by_cases hw : p + w ≤ s.streamLen
    · simp only [readFields, readAt_fits hw, ih (p + w) (by omega) hw]
    · simp only [readFields, readAt_short (Nat.not_le.mp hw)]

theorem decodeSpan_fits {span : Nat} {ws : List Nat} (h : s.pos.toNat + span ≤ s.streamLen) (hw : ws.sum ≤ span) :
    decodeSpan s span ws = some (fieldValues s.buf s.pos.toNat ws, s.pos.toNat + ws.sum) := by
  simp only [decodeSpan, if_neg (show ¬s.pos.toNat + span > s.streamLen by omega)]
  exact readFields_fits ws _ (by omega)

theorem decodeSpan_short {span : Nat} {ws : List Nat} (h : s.streamLen < s.pos.toNat + span) :
    decodeSpan s span ws = none := by simp [decodeSpan, h]

theorem decodeRecord_fits (h : s.pos.toNat + s.hopStride ≤ s.streamLen) (hf : Config.hopFieldBits ≤ s.hopStride) :
    decodeRecord s = some (some (fieldValues s.buf s.pos.toNat hopWidths, s.pos.toNat + s.hopStride)) := by
  have hw : hopWidths.sum = 256 := rfl
  have hb : Config.hopFieldBits = 256 := rfl
  simp only [decodeRecord, decodeSpan_fits h (show hopWidths.sum ≤ s.hopStride by omega), if_neg (show ¬s.hopStride < Config.hopFieldBits by omega)]
  rw [skipAt_fits (by omega)]
  simp only [Option.some.injEq, Prod.mk.injEq, true_and]
  omega

theorem decodeRecord_short (h : s.streamLen < s.pos.toNat + s.hopStride) : decodeRecord s = none := by
  simp only [decodeRecord, decodeSpan_short h]

/-- What a record decode gives depends only on POS, LEN, BUF and FPH. -/
theorem decodeRecord_congr {s t : State} (hp : s.pos = t.pos) (hl : s.len = t.len) (hb : s.buf = t.buf)
    (hf : s.job.fph = t.job.fph) : decodeRecord s = decodeRecord t := by
  have hn : s.streamLen = t.streamLen := congrArg (fun n => 8 * n.toNat) hl
  have hd : s.hopStride = t.hopStride := congrArg (fun n => 32 * n.toNat) hf
  have hr : ∀ p w, readAt s p w = readAt t p w := by intros; simp only [readAt, hn, hb]
  have hs : ∀ p w, skipAt s p w = skipAt t p w := by intros; simp only [skipAt, hn]
  have hrs : ∀ ws p, readFields s p ws = readFields t p ws := by
    intro ws
    induction ws with
    | nil => intro p; rfl
    | cons w ws ih => intro p; simp only [readFields, hr, ih]
  simp only [decodeRecord, decodeSpan, hrs, hs, hp, hn, hd]

/-! ### The sequential decoders read the fields of the offset tables -/

theorem ReportHdr.ofFields_values (m : Memory) (b : Nat) :
    ReportHdr.ofFields (fieldValues m b reportWidths) = ReportHdr.readFrom m b := by
  simp [ReportHdr.ofFields, ReportHdr.readFrom, reportWidths, fieldValues, fieldOf, fieldAt, Nat.add_assoc]

theorem EthHdr.ofFields_values (m : Memory) (b : Nat) :
    EthHdr.ofFields (fieldValues m b ethWidths) = EthHdr.readFrom m b := by
  simp [EthHdr.ofFields, EthHdr.readFrom, ethWidths, fieldValues, fieldOf, fieldAt, Nat.add_assoc]

theorem Ipv4Hdr.ofFields_values (m : Memory) (b : Nat) :
    Ipv4Hdr.ofFields (fieldValues m b ipv4Widths) = Ipv4Hdr.readFrom m b := by
  simp [Ipv4Hdr.ofFields, Ipv4Hdr.readFrom, ipv4Widths, fieldValues, fieldOf, fieldAt, Nat.add_assoc]

theorem UdpHdr.ofFields_values (m : Memory) (b : Nat) :
    UdpHdr.ofFields (fieldValues m b udpWidths) = UdpHdr.readFrom m b := by
  simp [UdpHdr.ofFields, UdpHdr.readFrom, udpWidths, fieldValues, fieldOf, fieldAt, Nat.add_assoc]

theorem ShimHdr.ofFields_values (m : Memory) (b : Nat) :
    ShimHdr.ofFields (fieldValues m b shimWidths) = ShimHdr.readFrom m b := by
  simp [ShimHdr.ofFields, ShimHdr.readFrom, shimWidths, fieldValues, fieldOf, fieldAt, Nat.add_assoc]

theorem IntmetaHdr.ofFields_values (m : Memory) (b : Nat) :
    IntmetaHdr.ofFields (fieldValues m b intmetaWidths) = IntmetaHdr.readFrom m b := by
  simp [IntmetaHdr.ofFields, IntmetaHdr.readFrom, intmetaWidths, fieldValues, fieldOf, fieldAt, Nat.add_assoc]

theorem HopRecord.ofFields_values (m : Memory) (b : Nat) :
    HopRecord.ofFields (fieldValues m b hopWidths) = HopRecord.readFrom m b := by
  simp [HopRecord.ofFields, HopRecord.readFrom, hopWidths, fieldValues, fieldOf, fieldAt, Nat.add_assoc]

end Sys2Proof.Machine
end

