-- ==== Sys2Proof/Laws/Decode.lean ====
section
/-! SUPPORT. The fields of a built code word, and the codes of registers and headers: what the round trips rest on. -/

namespace Sys2Proof

@[simp] theorem RegSel.ofCode_code (r : RegSel) : RegSel.ofCode r.code = r := by
  cases r with
  | reserved i => revert i; decide
  | _ => rfl

theorem RegSel.code_ofCode : ∀ c : BitVec 4, (RegSel.ofCode c).code = c := by decide

@[simp] theorem HdrSel.ofCode_code (h : HdrSel) : HdrSel.ofCode h.code = h := by
  cases h with
  | reserved i => revert i; decide
  | _ => rfl

theorem HdrSel.code_ofCode : ∀ c : BitVec 4, (HdrSel.ofCode c).code = c := by decide

theorem hostWord_toNat (op sel : BitVec 4) (imm : BitVec 16) :
    (hostWord op sel imm).toNat = op.toNat * 2 ^ 28 + sel.toNat * 2 ^ 24 + imm.toNat := by
  have h1 := op.isLt
  have h2 := sel.isLt
  have h3 := imm.isLt
  simp only [hostWord, BitVec.toNat_append, BitVec.toNat_ofNat, Nat.zero_mod, Nat.or_zero, Nat.shiftLeft_eq]
  rw [← Nat.shiftLeft_eq op.toNat, ← Nat.shiftLeft_add_eq_or_of_lt (by omega), ← Nat.shiftLeft_eq,
    ← Nat.shiftLeft_eq, ← Nat.shiftLeft_add_eq_or_of_lt (by omega)]
  simp only [Nat.shiftLeft_eq]
  omega

@[simp] theorem hostWord_op (op sel : BitVec 4) (imm : BitVec 16) : (hostWord op sel imm).extractLsb' 28 4 = op := by
  apply BitVec.eq_of_toNat_eq
  have h1 := op.isLt
  have h2 := sel.isLt
  have h3 := imm.isLt
  simp only [BitVec.extractLsb'_toNat, hostWord_toNat, Nat.shiftRight_eq_div_pow]
  omega

@[simp] theorem hostWord_sel (op sel : BitVec 4) (imm : BitVec 16) : (hostWord op sel imm).extractLsb' 24 4 = sel := by
  apply BitVec.eq_of_toNat_eq
  have h1 := op.isLt
  have h2 := sel.isLt
  have h3 := imm.isLt
  simp only [BitVec.extractLsb'_toNat, hostWord_toNat, Nat.shiftRight_eq_div_pow]
  omega

@[simp] theorem hostWord_reserved (op sel : BitVec 4) (imm : BitVec 16) :
    (hostWord op sel imm).extractLsb' 16 8 = 0#8 := by
  apply BitVec.eq_of_toNat_eq
  have h1 := op.isLt
  have h2 := sel.isLt
  have h3 := imm.isLt
  simp only [BitVec.extractLsb'_toNat, hostWord_toNat, Nat.shiftRight_eq_div_pow, BitVec.toNat_ofNat, Nat.zero_mod]
  omega

@[simp] theorem hostWord_imm (op sel : BitVec 4) (imm : BitVec 16) : (hostWord op sel imm).extractLsb' 0 16 = imm := by
  apply BitVec.eq_of_toNat_eq
  have h1 := op.isLt
  have h2 := sel.isLt
  have h3 := imm.isLt
  simp only [BitVec.extractLsb'_toNat, hostWord_toNat, Nat.shiftRight_eq_div_pow]
  omega

/-- A host word with no reserved bit set is built from its own fields. -/
theorem hostWord_fields (w : Word) (h : w.extractLsb' 16 8 = 0#8) :
    hostWord (w.extractLsb' 28 4) (w.extractLsb' 24 4) (w.extractLsb' 0 16) = w := by
  apply BitVec.eq_of_toNat_eq
  have hw := w.isLt
  have h8 := congrArg BitVec.toNat h
  simp only [hostWord_toNat, BitVec.extractLsb'_toNat, Nat.shiftRight_eq_div_pow, BitVec.toNat_ofNat,
    Nat.zero_mod] at h8 ⊢
  omega

theorem cursorWord_toNat (k : BitVec 1) {w : Nat} (hw : w < 2 ^ 13) : (cursorWord k w).toNat = k.toNat * 2 ^ 15 + w := by
  have h1 := k.isLt
  simp only [cursorWord, BitVec.toNat_append, BitVec.toNat_ofNat, Nat.zero_mod, Nat.or_zero, Nat.mod_eq_of_lt hw]
  rw [← Nat.shiftLeft_add_eq_or_of_lt hw]
  simp only [Nat.shiftLeft_eq]
  omega

theorem cursorWord_k (k : BitVec 1) {w : Nat} (hw : w < 2 ^ 13) : (cursorWord k w).extractLsb' 15 1 = k := by
  apply BitVec.eq_of_toNat_eq
  have h1 := k.isLt
  simp only [BitVec.extractLsb'_toNat, cursorWord_toNat k hw, Nat.shiftRight_eq_div_pow]
  omega

theorem cursorWord_reserved (k : BitVec 1) {w : Nat} (hw : w < 2 ^ 13) : (cursorWord k w).extractLsb' 13 2 = 0#2 := by
  apply BitVec.eq_of_toNat_eq
  have h1 := k.isLt
  simp only [BitVec.extractLsb'_toNat, cursorWord_toNat k hw, Nat.shiftRight_eq_div_pow, BitVec.toNat_ofNat,
    Nat.zero_mod]
  omega

theorem cursorWord_w (k : BitVec 1) {w : Nat} (hw : w < 2 ^ 13) : ((cursorWord k w).extractLsb' 0 13).toNat = w := by
  have h1 := k.isLt
  simp only [BitVec.extractLsb'_toNat, cursorWord_toNat k hw, Nat.shiftRight_eq_div_pow]
  omega

/-- A cursor request with no reserved bit set is built from its own fields. -/
theorem cursorWord_fields (q : BitVec 16) (h : q.extractLsb' 13 2 = 0#2) :
    cursorWord (q.extractLsb' 15 1) (q.extractLsb' 0 13).toNat = q := by
  apply BitVec.eq_of_toNat_eq
  have hq := q.isLt
  have h2 := congrArg BitVec.toNat h
  rw [cursorWord_toNat _ (BitVec.isLt _)]
  simp only [BitVec.extractLsb'_toNat, Nat.shiftRight_eq_div_pow, BitVec.toNat_ofNat, Nat.zero_mod] at h2 ⊢
  omega

end Sys2Proof
end

