-- ==== Sys2Proof/Laws/State.lean ====
section
/-! SUPPORT. One lemma per field per update of State, each true by definition, so that no later proof unfolds a record update. -/

namespace Sys2Proof.Machine

variable (s : State)

/-! ### setPos -/

@[simp] theorem State.setPos_seq (p : Nat) : (s.setPos p).seq = s.seq := rfl
@[simp] theorem State.setPos_buf (p : Nat) : (s.setPos p).buf = s.buf := rfl
@[simp] theorem State.setPos_len (p : Nat) : (s.setPos p).len = s.len := rfl
@[simp] theorem State.setPos_pos (p : Nat) : (s.setPos p).pos = BitVec.ofNat 19 p := rfl
@[simp] theorem State.setPos_cfg (p : Nat) : (s.setPos p).cfg = s.cfg := rfl
@[simp] theorem State.setPos_job (p : Nat) : (s.setPos p).job = s.job := rfl
@[simp] theorem State.setPos_hopIdx (p : Nat) : (s.setPos p).hopIdx = s.hopIdx := rfl
@[simp] theorem State.setPos_result (p : Nat) : (s.setPos p).result = s.result := rfl
@[simp] theorem State.setPos_errStage (p : Nat) : (s.setPos p).errStage = s.errStage := rfl
@[simp] theorem State.setPos_hdr (p : Nat) : (s.setPos p).hdr = s.hdr := rfl
@[simp] theorem State.setPos_sinkLog (p : Nat) : (s.setPos p).sinkLog = s.sinkLog := rfl
@[simp] theorem State.setPos_traceLog (p : Nat) : (s.setPos p).traceLog = s.traceLog := rfl
@[simp] theorem State.setPos_env (p : Nat) : (s.setPos p).env = s.env := rfl

/-! ### goto -/

@[simp] theorem State.goto_seq (c : BitVec 4) : (s.goto c).seq = c := rfl
@[simp] theorem State.goto_buf (c : BitVec 4) : (s.goto c).buf = s.buf := rfl
@[simp] theorem State.goto_len (c : BitVec 4) : (s.goto c).len = s.len := rfl
@[simp] theorem State.goto_pos (c : BitVec 4) : (s.goto c).pos = s.pos := rfl
@[simp] theorem State.goto_cfg (c : BitVec 4) : (s.goto c).cfg = s.cfg := rfl
@[simp] theorem State.goto_job (c : BitVec 4) : (s.goto c).job = s.job := rfl
@[simp] theorem State.goto_hopIdx (c : BitVec 4) : (s.goto c).hopIdx = s.hopIdx := rfl
@[simp] theorem State.goto_result (c : BitVec 4) : (s.goto c).result = s.result := rfl
@[simp] theorem State.goto_errStage (c : BitVec 4) : (s.goto c).errStage = s.errStage := rfl
@[simp] theorem State.goto_hdr (c : BitVec 4) : (s.goto c).hdr = s.hdr := rfl
@[simp] theorem State.goto_sinkLog (c : BitVec 4) : (s.goto c).sinkLog = s.sinkLog := rfl
@[simp] theorem State.goto_traceLog (c : BitVec 4) : (s.goto c).traceLog = s.traceLog := rfl
@[simp] theorem State.goto_env (c : BitVec 4) : (s.goto c).env = s.env := rfl

/-! ### raiseUnderrun -/

@[simp] theorem State.raiseUnderrun_seq (c : BitVec 4) : (s.raiseUnderrun c).seq = Stage.underrun := rfl
@[simp] theorem State.raiseUnderrun_buf (c : BitVec 4) : (s.raiseUnderrun c).buf = s.buf := rfl
@[simp] theorem State.raiseUnderrun_len (c : BitVec 4) : (s.raiseUnderrun c).len = s.len := rfl
@[simp] theorem State.raiseUnderrun_pos (c : BitVec 4) : (s.raiseUnderrun c).pos = s.pos := rfl
@[simp] theorem State.raiseUnderrun_cfg (c : BitVec 4) : (s.raiseUnderrun c).cfg = s.cfg := rfl
@[simp] theorem State.raiseUnderrun_job (c : BitVec 4) : (s.raiseUnderrun c).job = s.job := rfl
@[simp] theorem State.raiseUnderrun_hopIdx (c : BitVec 4) : (s.raiseUnderrun c).hopIdx = s.hopIdx := rfl
@[simp] theorem State.raiseUnderrun_result (c : BitVec 4) : (s.raiseUnderrun c).result = ResultCode.underrun := rfl
@[simp] theorem State.raiseUnderrun_errStage (c : BitVec 4) : (s.raiseUnderrun c).errStage = c := rfl
@[simp] theorem State.raiseUnderrun_hdr (c : BitVec 4) : (s.raiseUnderrun c).hdr = s.hdr := rfl
@[simp] theorem State.raiseUnderrun_sinkLog (c : BitVec 4) : (s.raiseUnderrun c).sinkLog = s.sinkLog := rfl
@[simp] theorem State.raiseUnderrun_traceLog (c : BitVec 4) : (s.raiseUnderrun c).traceLog = s.traceLog := rfl
@[simp] theorem State.raiseUnderrun_env (c : BitVec 4) : (s.raiseUnderrun c).env = s.env := rfl

/-! ### raiseSinkFailure -/

@[simp] theorem State.raiseSinkFailure_seq : (s.raiseSinkFailure).seq = Stage.fatal := rfl
@[simp] theorem State.raiseSinkFailure_buf : (s.raiseSinkFailure).buf = s.buf := rfl
@[simp] theorem State.raiseSinkFailure_len : (s.raiseSinkFailure).len = s.len := rfl
@[simp] theorem State.raiseSinkFailure_pos : (s.raiseSinkFailure).pos = s.pos := rfl
@[simp] theorem State.raiseSinkFailure_cfg : (s.raiseSinkFailure).cfg = s.cfg := rfl
@[simp] theorem State.raiseSinkFailure_job : (s.raiseSinkFailure).job = s.job := rfl
@[simp] theorem State.raiseSinkFailure_hopIdx : (s.raiseSinkFailure).hopIdx = s.hopIdx := rfl
@[simp] theorem State.raiseSinkFailure_result : (s.raiseSinkFailure).result = ResultCode.fatal := rfl
@[simp] theorem State.raiseSinkFailure_errStage : (s.raiseSinkFailure).errStage = Stage.route := rfl
@[simp] theorem State.raiseSinkFailure_hdr : (s.raiseSinkFailure).hdr = s.hdr := rfl
@[simp] theorem State.raiseSinkFailure_sinkLog : (s.raiseSinkFailure).sinkLog = s.sinkLog := rfl
@[simp] theorem State.raiseSinkFailure_traceLog : (s.raiseSinkFailure).traceLog = s.traceLog := rfl
@[simp] theorem State.raiseSinkFailure_env : (s.raiseSinkFailure).env = s.env := rfl

/-! ### finishJob -/

@[simp] theorem State.finishJob_seq : (s.finishJob).seq = Stage.done := rfl
@[simp] theorem State.finishJob_buf : (s.finishJob).buf = s.buf := rfl
@[simp] theorem State.finishJob_len : (s.finishJob).len = s.len := rfl
@[simp] theorem State.finishJob_pos : (s.finishJob).pos = s.pos := rfl
@[simp] theorem State.finishJob_cfg : (s.finishJob).cfg = s.cfg := rfl
@[simp] theorem State.finishJob_job : (s.finishJob).job = s.job := rfl
@[simp] theorem State.finishJob_hopIdx : (s.finishJob).hopIdx = s.hopIdx := rfl
@[simp] theorem State.finishJob_result : (s.finishJob).result = ResultCode.done := rfl
@[simp] theorem State.finishJob_errStage : (s.finishJob).errStage = s.errStage := rfl
@[simp] theorem State.finishJob_hdr : (s.finishJob).hdr = s.hdr := rfl
@[simp] theorem State.finishJob_sinkLog : (s.finishJob).sinkLog = s.sinkLog := rfl
@[simp] theorem State.finishJob_traceLog : (s.finishJob).traceLog = s.traceLog := rfl
@[simp] theorem State.finishJob_env : (s.finishJob).env = s.env := rfl

/-! ### trace -/

@[simp] theorem State.trace_seq (e : TraceEvent) : (s.trace e).seq = s.seq := rfl
@[simp] theorem State.trace_buf (e : TraceEvent) : (s.trace e).buf = s.buf := rfl
@[simp] theorem State.trace_len (e : TraceEvent) : (s.trace e).len = s.len := rfl
@[simp] theorem State.trace_pos (e : TraceEvent) : (s.trace e).pos = s.pos := rfl
@[simp] theorem State.trace_cfg (e : TraceEvent) : (s.trace e).cfg = s.cfg := rfl
@[simp] theorem State.trace_job (e : TraceEvent) : (s.trace e).job = s.job := rfl
@[simp] theorem State.trace_hopIdx (e : TraceEvent) : (s.trace e).hopIdx = s.hopIdx := rfl
@[simp] theorem State.trace_result (e : TraceEvent) : (s.trace e).result = s.result := rfl
@[simp] theorem State.trace_errStage (e : TraceEvent) : (s.trace e).errStage = s.errStage := rfl
@[simp] theorem State.trace_hdr (e : TraceEvent) : (s.trace e).hdr = s.hdr := rfl
@[simp] theorem State.trace_sinkLog (e : TraceEvent) : (s.trace e).sinkLog = s.sinkLog := rfl
@[simp] theorem State.trace_traceLog (e : TraceEvent) : (s.trace e).traceLog = if s.job.trace = 1#1 then s.traceLog ++ [e] else s.traceLog := rfl
@[simp] theorem State.trace_env (e : TraceEvent) : (s.trace e).env = s.env := rfl

/-! ### emitSink -/

@[simp] theorem State.emitSink_seq (k : SinkId) (v : BitVec 32) : (s.emitSink k v).seq = s.seq := rfl
@[simp] theorem State.emitSink_buf (k : SinkId) (v : BitVec 32) : (s.emitSink k v).buf = s.buf := rfl
@[simp] theorem State.emitSink_len (k : SinkId) (v : BitVec 32) : (s.emitSink k v).len = s.len := rfl
@[simp] theorem State.emitSink_pos (k : SinkId) (v : BitVec 32) : (s.emitSink k v).pos = s.pos := rfl
@[simp] theorem State.emitSink_cfg (k : SinkId) (v : BitVec 32) : (s.emitSink k v).cfg = s.cfg := rfl
@[simp] theorem State.emitSink_job (k : SinkId) (v : BitVec 32) : (s.emitSink k v).job = s.job := rfl
@[simp] theorem State.emitSink_hopIdx (k : SinkId) (v : BitVec 32) : (s.emitSink k v).hopIdx = s.hopIdx := rfl
@[simp] theorem State.emitSink_result (k : SinkId) (v : BitVec 32) : (s.emitSink k v).result = s.result := rfl
@[simp] theorem State.emitSink_errStage (k : SinkId) (v : BitVec 32) : (s.emitSink k v).errStage = s.errStage := rfl
@[simp] theorem State.emitSink_hdr (k : SinkId) (v : BitVec 32) : (s.emitSink k v).hdr = s.hdr := rfl
@[simp] theorem State.emitSink_sinkLog (k : SinkId) (v : BitVec 32) : (s.emitSink k v).sinkLog = s.sinkLog ++ [⟨k, v, s.sinkReply⟩] := rfl
@[simp] theorem State.emitSink_traceLog (k : SinkId) (v : BitVec 32) : (s.emitSink k v).traceLog = s.traceLog := rfl
@[simp] theorem State.emitSink_env (k : SinkId) (v : BitVec 32) : (s.emitSink k v).env = s.env.takeSinkReply := rfl

/-! ### answer -/

@[simp] theorem State.answer_seq (a : Answer) : (s.answer a).seq = s.seq := rfl
@[simp] theorem State.answer_buf (a : Answer) : (s.answer a).buf = s.buf := rfl
@[simp] theorem State.answer_len (a : Answer) : (s.answer a).len = s.len := rfl
@[simp] theorem State.answer_pos (a : Answer) : (s.answer a).pos = s.pos := rfl
@[simp] theorem State.answer_cfg (a : Answer) : (s.answer a).cfg = s.cfg := rfl
@[simp] theorem State.answer_job (a : Answer) : (s.answer a).job = s.job := rfl
@[simp] theorem State.answer_hopIdx (a : Answer) : (s.answer a).hopIdx = s.hopIdx := rfl
@[simp] theorem State.answer_result (a : Answer) : (s.answer a).result = s.result := rfl
@[simp] theorem State.answer_errStage (a : Answer) : (s.answer a).errStage = s.errStage := rfl
@[simp] theorem State.answer_hdr (a : Answer) : (s.answer a).hdr = s.hdr := rfl
@[simp] theorem State.answer_sinkLog (a : Answer) : (s.answer a).sinkLog = s.sinkLog := rfl
@[simp] theorem State.answer_traceLog (a : Answer) : (s.answer a).traceLog = s.traceLog := rfl
@[simp] theorem State.answer_env (a : Answer) : (s.answer a).env = { s.env with answers := s.env.answers ++ [a] } := rfl

/-! ### refuse -/

@[simp] theorem State.refuse_seq (r : CmdRefusal) : (s.refuse r).seq = s.seq := rfl
@[simp] theorem State.refuse_buf (r : CmdRefusal) : (s.refuse r).buf = s.buf := rfl
@[simp] theorem State.refuse_len (r : CmdRefusal) : (s.refuse r).len = s.len := rfl
@[simp] theorem State.refuse_pos (r : CmdRefusal) : (s.refuse r).pos = s.pos := rfl
@[simp] theorem State.refuse_cfg (r : CmdRefusal) : (s.refuse r).cfg = s.cfg := rfl
@[simp] theorem State.refuse_job (r : CmdRefusal) : (s.refuse r).job = s.job := rfl
@[simp] theorem State.refuse_hopIdx (r : CmdRefusal) : (s.refuse r).hopIdx = s.hopIdx := rfl
@[simp] theorem State.refuse_result (r : CmdRefusal) : (s.refuse r).result = s.result := rfl
@[simp] theorem State.refuse_errStage (r : CmdRefusal) : (s.refuse r).errStage = s.errStage := rfl
@[simp] theorem State.refuse_hdr (r : CmdRefusal) : (s.refuse r).hdr = s.hdr := rfl
@[simp] theorem State.refuse_sinkLog (r : CmdRefusal) : (s.refuse r).sinkLog = s.sinkLog := rfl
@[simp] theorem State.refuse_traceLog (r : CmdRefusal) : (s.refuse r).traceLog = s.traceLog := rfl
@[simp] theorem State.refuse_env (r : CmdRefusal) : (s.refuse r).env = { s.env with refusals := s.env.refusals ++ [r] } := rfl

/-! ### withScript -/

@[simp] theorem State.withScript_seq (l : List ScriptEvent) : (s.withScript l).seq = s.seq := rfl
@[simp] theorem State.withScript_buf (l : List ScriptEvent) : (s.withScript l).buf = s.buf := rfl
@[simp] theorem State.withScript_len (l : List ScriptEvent) : (s.withScript l).len = s.len := rfl
@[simp] theorem State.withScript_pos (l : List ScriptEvent) : (s.withScript l).pos = s.pos := rfl
@[simp] theorem State.withScript_cfg (l : List ScriptEvent) : (s.withScript l).cfg = s.cfg := rfl
@[simp] theorem State.withScript_job (l : List ScriptEvent) : (s.withScript l).job = s.job := rfl
@[simp] theorem State.withScript_hopIdx (l : List ScriptEvent) : (s.withScript l).hopIdx = s.hopIdx := rfl
@[simp] theorem State.withScript_result (l : List ScriptEvent) : (s.withScript l).result = s.result := rfl
@[simp] theorem State.withScript_errStage (l : List ScriptEvent) : (s.withScript l).errStage = s.errStage := rfl
@[simp] theorem State.withScript_hdr (l : List ScriptEvent) : (s.withScript l).hdr = s.hdr := rfl
@[simp] theorem State.withScript_sinkLog (l : List ScriptEvent) : (s.withScript l).sinkLog = s.sinkLog := rfl
@[simp] theorem State.withScript_traceLog (l : List ScriptEvent) : (s.withScript l).traceLog = s.traceLog := rfl
@[simp] theorem State.withScript_env (l : List ScriptEvent) : (s.withScript l).env = { s.env with script := l } := rfl

/-! ### setReport -/

@[simp] theorem State.setReport_seq (h : ReportHdr) : (s.setReport h).seq = s.seq := rfl
@[simp] theorem State.setReport_buf (h : ReportHdr) : (s.setReport h).buf = s.buf := rfl
@[simp] theorem State.setReport_len (h : ReportHdr) : (s.setReport h).len = s.len := rfl
@[simp] theorem State.setReport_pos (h : ReportHdr) : (s.setReport h).pos = s.pos := rfl
@[simp] theorem State.setReport_cfg (h : ReportHdr) : (s.setReport h).cfg = s.cfg := rfl
@[simp] theorem State.setReport_job (h : ReportHdr) : (s.setReport h).job = s.job := rfl
@[simp] theorem State.setReport_hopIdx (h : ReportHdr) : (s.setReport h).hopIdx = s.hopIdx := rfl
@[simp] theorem State.setReport_result (h : ReportHdr) : (s.setReport h).result = s.result := rfl
@[simp] theorem State.setReport_errStage (h : ReportHdr) : (s.setReport h).errStage = s.errStage := rfl
@[simp] theorem State.setReport_hdr (h : ReportHdr) : (s.setReport h).hdr = { s.hdr with report := h, vReport := true } := rfl
@[simp] theorem State.setReport_sinkLog (h : ReportHdr) : (s.setReport h).sinkLog = s.sinkLog := rfl
@[simp] theorem State.setReport_traceLog (h : ReportHdr) : (s.setReport h).traceLog = s.traceLog := rfl
@[simp] theorem State.setReport_env (h : ReportHdr) : (s.setReport h).env = s.env := rfl

/-! ### setEth -/

@[simp] theorem State.setEth_seq (h : EthHdr) : (s.setEth h).seq = s.seq := rfl
@[simp] theorem State.setEth_buf (h : EthHdr) : (s.setEth h).buf = s.buf := rfl
@[simp] theorem State.setEth_len (h : EthHdr) : (s.setEth h).len = s.len := rfl
@[simp] theorem State.setEth_pos (h : EthHdr) : (s.setEth h).pos = s.pos := rfl
@[simp] theorem State.setEth_cfg (h : EthHdr) : (s.setEth h).cfg = s.cfg := rfl
@[simp] theorem State.setEth_job (h : EthHdr) : (s.setEth h).job = s.job := rfl
@[simp] theorem State.setEth_hopIdx (h : EthHdr) : (s.setEth h).hopIdx = s.hopIdx := rfl
@[simp] theorem State.setEth_result (h : EthHdr) : (s.setEth h).result = s.result := rfl
@[simp] theorem State.setEth_errStage (h : EthHdr) : (s.setEth h).errStage = s.errStage := rfl
@[simp] theorem State.setEth_hdr (h : EthHdr) : (s.setEth h).hdr = { s.hdr with eth := h, vEth := true } := rfl
@[simp] theorem State.setEth_sinkLog (h : EthHdr) : (s.setEth h).sinkLog = s.sinkLog := rfl
@[simp] theorem State.setEth_traceLog (h : EthHdr) : (s.setEth h).traceLog = s.traceLog := rfl
@[simp] theorem State.setEth_env (h : EthHdr) : (s.setEth h).env = s.env := rfl

/-! ### setIpv4 -/

@[simp] theorem State.setIpv4_seq (h : Ipv4Hdr) : (s.setIpv4 h).seq = s.seq := rfl
@[simp] theorem State.setIpv4_buf (h : Ipv4Hdr) : (s.setIpv4 h).buf = s.buf := rfl
@[simp] theorem State.setIpv4_len (h : Ipv4Hdr) : (s.setIpv4 h).len = s.len := rfl
@[simp] theorem State.setIpv4_pos (h : Ipv4Hdr) : (s.setIpv4 h).pos = s.pos := rfl
@[simp] theorem State.setIpv4_cfg (h : Ipv4Hdr) : (s.setIpv4 h).cfg = s.cfg := rfl
@[simp] theorem State.setIpv4_job (h : Ipv4Hdr) : (s.setIpv4 h).job = s.job := rfl
@[simp] theorem State.setIpv4_hopIdx (h : Ipv4Hdr) : (s.setIpv4 h).hopIdx = s.hopIdx := rfl
@[simp] theorem State.setIpv4_result (h : Ipv4Hdr) : (s.setIpv4 h).result = s.result := rfl
@[simp] theorem State.setIpv4_errStage (h : Ipv4Hdr) : (s.setIpv4 h).errStage = s.errStage := rfl
@[simp] theorem State.setIpv4_hdr (h : Ipv4Hdr) : (s.setIpv4 h).hdr = { s.hdr with ipv4 := h, vIpv4 := true } := rfl
@[simp] theorem State.setIpv4_sinkLog (h : Ipv4Hdr) : (s.setIpv4 h).sinkLog = s.sinkLog := rfl
@[simp] theorem State.setIpv4_traceLog (h : Ipv4Hdr) : (s.setIpv4 h).traceLog = s.traceLog := rfl
@[simp] theorem State.setIpv4_env (h : Ipv4Hdr) : (s.setIpv4 h).env = s.env := rfl

/-! ### setUdp -/

@[simp] theorem State.setUdp_seq (h : UdpHdr) : (s.setUdp h).seq = s.seq := rfl
@[simp] theorem State.setUdp_buf (h : UdpHdr) : (s.setUdp h).buf = s.buf := rfl
@[simp] theorem State.setUdp_len (h : UdpHdr) : (s.setUdp h).len = s.len := rfl
@[simp] theorem State.setUdp_pos (h : UdpHdr) : (s.setUdp h).pos = s.pos := rfl
@[simp] theorem State.setUdp_cfg (h : UdpHdr) : (s.setUdp h).cfg = s.cfg := rfl
@[simp] theorem State.setUdp_job (h : UdpHdr) : (s.setUdp h).job = s.job := rfl
@[simp] theorem State.setUdp_hopIdx (h : UdpHdr) : (s.setUdp h).hopIdx = s.hopIdx := rfl
@[simp] theorem State.setUdp_result (h : UdpHdr) : (s.setUdp h).result = s.result := rfl
@[simp] theorem State.setUdp_errStage (h : UdpHdr) : (s.setUdp h).errStage = s.errStage := rfl
@[simp] theorem State.setUdp_hdr (h : UdpHdr) : (s.setUdp h).hdr = { s.hdr with udp := h, vUdp := true } := rfl
@[simp] theorem State.setUdp_sinkLog (h : UdpHdr) : (s.setUdp h).sinkLog = s.sinkLog := rfl
@[simp] theorem State.setUdp_traceLog (h : UdpHdr) : (s.setUdp h).traceLog = s.traceLog := rfl
@[simp] theorem State.setUdp_env (h : UdpHdr) : (s.setUdp h).env = s.env := rfl

/-! ### setShim -/

@[simp] theorem State.setShim_seq (h : ShimHdr) : (s.setShim h).seq = s.seq := rfl
@[simp] theorem State.setShim_buf (h : ShimHdr) : (s.setShim h).buf = s.buf := rfl
@[simp] theorem State.setShim_len (h : ShimHdr) : (s.setShim h).len = s.len := rfl
@[simp] theorem State.setShim_pos (h : ShimHdr) : (s.setShim h).pos = s.pos := rfl
@[simp] theorem State.setShim_cfg (h : ShimHdr) : (s.setShim h).cfg = s.cfg := rfl
@[simp] theorem State.setShim_job (h : ShimHdr) : (s.setShim h).job = s.job := rfl
@[simp] theorem State.setShim_hopIdx (h : ShimHdr) : (s.setShim h).hopIdx = s.hopIdx := rfl
@[simp] theorem State.setShim_result (h : ShimHdr) : (s.setShim h).result = s.result := rfl
@[simp] theorem State.setShim_errStage (h : ShimHdr) : (s.setShim h).errStage = s.errStage := rfl
@[simp] theorem State.setShim_hdr (h : ShimHdr) : (s.setShim h).hdr = { s.hdr with shim := h, vShim := true } := rfl
@[simp] theorem State.setShim_sinkLog (h : ShimHdr) : (s.setShim h).sinkLog = s.sinkLog := rfl
@[simp] theorem State.setShim_traceLog (h : ShimHdr) : (s.setShim h).traceLog = s.traceLog := rfl
@[simp] theorem State.setShim_env (h : ShimHdr) : (s.setShim h).env = s.env := rfl

/-! ### setIntmeta -/

@[simp] theorem State.setIntmeta_seq (h : IntmetaHdr) : (s.setIntmeta h).seq = s.seq := rfl
@[simp] theorem State.setIntmeta_buf (h : IntmetaHdr) : (s.setIntmeta h).buf = s.buf := rfl
@[simp] theorem State.setIntmeta_len (h : IntmetaHdr) : (s.setIntmeta h).len = s.len := rfl
@[simp] theorem State.setIntmeta_pos (h : IntmetaHdr) : (s.setIntmeta h).pos = s.pos := rfl
@[simp] theorem State.setIntmeta_cfg (h : IntmetaHdr) : (s.setIntmeta h).cfg = s.cfg := rfl
@[simp] theorem State.setIntmeta_job (h : IntmetaHdr) : (s.setIntmeta h).job = s.job := rfl
@[simp] theorem State.setIntmeta_hopIdx (h : IntmetaHdr) : (s.setIntmeta h).hopIdx = s.hopIdx := rfl
@[simp] theorem State.setIntmeta_result (h : IntmetaHdr) : (s.setIntmeta h).result = s.result := rfl
@[simp] theorem State.setIntmeta_errStage (h : IntmetaHdr) : (s.setIntmeta h).errStage = s.errStage := rfl
@[simp] theorem State.setIntmeta_hdr (h : IntmetaHdr) : (s.setIntmeta h).hdr = { s.hdr with intmeta := h, vIntmeta := true } := rfl
@[simp] theorem State.setIntmeta_sinkLog (h : IntmetaHdr) : (s.setIntmeta h).sinkLog = s.sinkLog := rfl
@[simp] theorem State.setIntmeta_traceLog (h : IntmetaHdr) : (s.setIntmeta h).traceLog = s.traceLog := rfl
@[simp] theorem State.setIntmeta_env (h : IntmetaHdr) : (s.setIntmeta h).env = s.env := rfl

/-! ### setHop -/

@[simp] theorem State.setHop_seq (h : HopRecord) : (s.setHop h).seq = s.seq := rfl
@[simp] theorem State.setHop_buf (h : HopRecord) : (s.setHop h).buf = s.buf := rfl
@[simp] theorem State.setHop_len (h : HopRecord) : (s.setHop h).len = s.len := rfl
@[simp] theorem State.setHop_pos (h : HopRecord) : (s.setHop h).pos = s.pos := rfl
@[simp] theorem State.setHop_cfg (h : HopRecord) : (s.setHop h).cfg = s.cfg := rfl
@[simp] theorem State.setHop_job (h : HopRecord) : (s.setHop h).job = s.job := rfl
@[simp] theorem State.setHop_hopIdx (h : HopRecord) : (s.setHop h).hopIdx = s.hopIdx := rfl
@[simp] theorem State.setHop_result (h : HopRecord) : (s.setHop h).result = s.result := rfl
@[simp] theorem State.setHop_errStage (h : HopRecord) : (s.setHop h).errStage = s.errStage := rfl
@[simp] theorem State.setHop_hdr (h : HopRecord) : (s.setHop h).hdr = { s.hdr with hop := h, vHop := true } := rfl
@[simp] theorem State.setHop_sinkLog (h : HopRecord) : (s.setHop h).sinkLog = s.sinkLog := rfl
@[simp] theorem State.setHop_traceLog (h : HopRecord) : (s.setHop h).traceLog = s.traceLog := rfl
@[simp] theorem State.setHop_env (h : HopRecord) : (s.setHop h).env = s.env := rfl

/-! ### startJob -/

@[simp] theorem State.startJob_seq (n : Nat) (bytes : List Byte) : (s.startJob n bytes).seq = Stage.report := rfl
@[simp] theorem State.startJob_buf (n : Nat) (bytes : List Byte) : (s.startJob n bytes).buf = Memory.load bytes := rfl
@[simp] theorem State.startJob_len (n : Nat) (bytes : List Byte) : (s.startJob n bytes).len = BitVec.ofNat 16 n := rfl
@[simp] theorem State.startJob_pos (n : Nat) (bytes : List Byte) : (s.startJob n bytes).pos = 0 := rfl
@[simp] theorem State.startJob_cfg (n : Nat) (bytes : List Byte) : (s.startJob n bytes).cfg = s.cfg := rfl
@[simp] theorem State.startJob_job (n : Nat) (bytes : List Byte) : (s.startJob n bytes).job = s.cfg.latch := rfl
@[simp] theorem State.startJob_hopIdx (n : Nat) (bytes : List Byte) : (s.startJob n bytes).hopIdx = 0 := rfl
@[simp] theorem State.startJob_result (n : Nat) (bytes : List Byte) : (s.startJob n bytes).result = ResultCode.none := rfl
@[simp] theorem State.startJob_errStage (n : Nat) (bytes : List Byte) : (s.startJob n bytes).errStage = 0 := rfl
@[simp] theorem State.startJob_hdr (n : Nat) (bytes : List Byte) : (s.startJob n bytes).hdr = s.hdr.invalidate := rfl
@[simp] theorem State.startJob_sinkLog (n : Nat) (bytes : List Byte) : (s.startJob n bytes).sinkLog = s.sinkLog := rfl
@[simp] theorem State.startJob_traceLog (n : Nat) (bytes : List Byte) : (s.startJob n bytes).traceLog = s.traceLog := rfl
@[simp] theorem State.startJob_env (n : Nat) (bytes : List Byte) : (s.startJob n bytes).env = { s.env with byteChannel := [] } := rfl

/-! ### resetCore -/

@[simp] theorem State.resetCore_seq : s.resetCore.seq = Stage.idle := rfl
@[simp] theorem State.resetCore_buf : s.resetCore.buf = [] := rfl
@[simp] theorem State.resetCore_len : s.resetCore.len = 0 := rfl
@[simp] theorem State.resetCore_pos : s.resetCore.pos = 0 := rfl
@[simp] theorem State.resetCore_cfg : s.resetCore.cfg = CfgRegs.reset := rfl
@[simp] theorem State.resetCore_job : s.resetCore.job = JobRegs.reset := rfl
@[simp] theorem State.resetCore_hopIdx : s.resetCore.hopIdx = 0 := rfl
@[simp] theorem State.resetCore_result : s.resetCore.result = 0 := rfl
@[simp] theorem State.resetCore_errStage : s.resetCore.errStage = 0 := rfl
@[simp] theorem State.resetCore_hdr : s.resetCore.hdr = HdrRegs.reset := rfl
@[simp] theorem State.resetCore_sinkLog : s.resetCore.sinkLog = s.sinkLog := rfl
@[simp] theorem State.resetCore_traceLog : s.resetCore.traceLog = s.traceLog := rfl
@[simp] theorem State.resetCore_env : s.resetCore.env = { s.env with held := none, byteChannel := [] } := rfl

/-! ### advanceHop -/

@[simp] theorem State.advanceHop_buf : s.advanceHop.buf = s.buf := by unfold State.advanceHop; dsimp only; split <;> rfl
@[simp] theorem State.advanceHop_len : s.advanceHop.len = s.len := by unfold State.advanceHop; dsimp only; split <;> rfl
@[simp] theorem State.advanceHop_pos : s.advanceHop.pos = s.pos := by unfold State.advanceHop; dsimp only; split <;> rfl
@[simp] theorem State.advanceHop_cfg : s.advanceHop.cfg = s.cfg := by unfold State.advanceHop; dsimp only; split <;> rfl
@[simp] theorem State.advanceHop_job : s.advanceHop.job = s.job := by unfold State.advanceHop; dsimp only; split <;> rfl
@[simp] theorem State.advanceHop_errStage : s.advanceHop.errStage = s.errStage := by unfold State.advanceHop; dsimp only; split <;> rfl
@[simp] theorem State.advanceHop_hdr : s.advanceHop.hdr = s.hdr := by unfold State.advanceHop; dsimp only; split <;> rfl
@[simp] theorem State.advanceHop_sinkLog : s.advanceHop.sinkLog = s.sinkLog := by unfold State.advanceHop; dsimp only; split <;> rfl
@[simp] theorem State.advanceHop_traceLog : s.advanceHop.traceLog = s.traceLog := by unfold State.advanceHop; dsimp only; split <;> rfl
@[simp] theorem State.advanceHop_env : s.advanceHop.env = s.env := by unfold State.advanceHop; dsimp only; split <;> rfl
@[simp] theorem State.advanceHop_hopIdx : s.advanceHop.hopIdx = BitVec.ofNat 8 (s.hopIdx.toNat + 1) := by
  unfold State.advanceHop; dsimp only; split <;> rfl
@[simp] theorem State.advanceHop_seq :
    s.advanceHop.seq = if s.hopIdx.toNat + 1 = s.job.nt.toNat then Stage.done else Stage.hop := by
  unfold State.advanceHop; dsimp only; split <;> rfl
@[simp] theorem State.advanceHop_result :
    s.advanceHop.result = if s.hopIdx.toNat + 1 = s.job.nt.toNat then ResultCode.done else s.result := by
  unfold State.advanceHop; dsimp only; split <;> rfl

/-! ### The classes of STATE (`10_state.md` R15) -/

@[simp] theorem State.busy_iff : s.busy = true ↔ 1 ≤ s.seq.toNat ∧ s.seq.toNat ≤ 8 := by simp [State.busy]
@[simp] theorem State.ready_iff :
    s.ready = true ↔ s.seq = Stage.idle ∨ s.seq = Stage.done ∨ s.seq = Stage.underrun := by
  simp [State.ready, or_assoc]
@[simp] theorem State.reserved_iff : s.reserved = true ↔ 12 ≤ s.seq.toNat := by simp [State.reserved]
theorem State.reserved_eq_false : s.reserved = false ↔ s.seq.toNat < 12 := by simp [State.reserved]

/-- A ready STATE is neither busy nor FATAL nor reserved. -/
theorem State.ready_excludes {s : State} (h : s.ready = true) :
    s.busy = false ∧ s.seq ≠ Stage.fatal ∧ s.reserved = false := by
  rcases s.ready_iff.mp h with h | h | h <;> simp only [State.busy, State.reserved, h] <;> decide

/-- Every STATE is busy, ready, FATAL or reserved. -/
theorem State.class_cases : s.busy = true ∨ s.ready = true ∨ s.seq = Stage.fatal ∨ s.reserved = true := by
  have codes : ∀ c : BitVec 4, (1 ≤ c.toNat ∧ c.toNat ≤ 8) ∨ (c = Stage.idle ∨ c = Stage.done ∨ c = Stage.underrun)
      ∨ c = Stage.fatal ∨ 12 ≤ c.toNat := by decide
  simpa using codes s.seq

/-! ### the environment -/

@[simp] theorem Env.takeSinkReply_script (e : Env) : e.takeSinkReply.script = e.script := by unfold Env.takeSinkReply; split <;> rfl
@[simp] theorem Env.takeSinkReply_byteChannel (e : Env) : e.takeSinkReply.byteChannel = e.byteChannel := by unfold Env.takeSinkReply; split <;> rfl
@[simp] theorem Env.takeSinkReply_held (e : Env) : e.takeSinkReply.held = e.held := by unfold Env.takeSinkReply; split <;> rfl
@[simp] theorem Env.takeSinkReply_answers (e : Env) : e.takeSinkReply.answers = e.answers := by unfold Env.takeSinkReply; split <;> rfl
@[simp] theorem Env.takeSinkReply_refusals (e : Env) : e.takeSinkReply.refusals = e.refusals := by unfold Env.takeSinkReply; split <;> rfl

end Sys2Proof.Machine
end

