-- ==== Sys2Proof/Laws/Exec.lean ====
section
/-! SUPPORT. One equation per meaning, with the reads already evaluated: what each operation can do, said once, for later proofs to cite instead of unfolding it. -/

namespace Sys2Proof.Machine

variable (s : State)

/-- The state a DEC_REPORT that fits leaves. -/
def State.afterReport (s : State) : State :=
  (((s.setReport (ReportHdr.readFrom s.buf s.pos.toNat)).setPos (s.pos.toNat + 128)).trace
    (.report (ReportHdr.readFrom s.buf s.pos.toNat))).goto Stage.eth

theorem execDecReport_eq : execDecReport s =
    .next (if s.pos.toNat + 128 ≤ s.streamLen then s.afterReport else s.raiseUnderrun Stage.report) := by
  have hw : reportWidths.sum = 128 := rfl
  unfold execDecReport
  split
  · next h =>
    by_cases hf : s.pos.toNat + 128 ≤ s.streamLen
    · rw [decodeSpan_fits (span := reportSpan) hf (by decide)] at h; simp at h
    · rw [if_neg hf]
  · next vs p h =>
    by_cases hf : s.pos.toNat + 128 ≤ s.streamLen
    · rw [decodeSpan_fits (span := reportSpan) hf (by decide), hw] at h
      simp only [Option.some.injEq, Prod.mk.injEq] at h
      obtain ⟨rfl, rfl⟩ := h
      rw [if_pos hf, ReportHdr.ofFields_values]; rfl
    · rw [decodeSpan_short (span := reportSpan) (Nat.not_le.mp hf)] at h; simp at h

/-- The state a DEC_ETH that fits leaves. -/
def State.afterEth (s : State) : State :=
  (((s.setEth (EthHdr.readFrom s.buf s.pos.toNat)).setPos (s.pos.toNat + 112)).trace
    (.eth (EthHdr.readFrom s.buf s.pos.toNat))).goto Stage.ipv4

theorem execDecEth_eq : execDecEth s =
    .next (if s.pos.toNat + 112 ≤ s.streamLen then s.afterEth else s.raiseUnderrun Stage.eth) := by
  have hw : ethWidths.sum = 112 := rfl
  unfold execDecEth
  split
  · next h =>
    by_cases hf : s.pos.toNat + 112 ≤ s.streamLen
    · rw [decodeSpan_fits (span := ethSpan) hf (by decide)] at h; simp at h
    · rw [if_neg hf]
  · next vs p h =>
    by_cases hf : s.pos.toNat + 112 ≤ s.streamLen
    · rw [decodeSpan_fits (span := ethSpan) hf (by decide), hw] at h
      simp only [Option.some.injEq, Prod.mk.injEq] at h
      obtain ⟨rfl, rfl⟩ := h
      rw [if_pos hf, EthHdr.ofFields_values]; rfl
    · rw [decodeSpan_short (span := ethSpan) (Nat.not_le.mp hf)] at h; simp at h

/-- The state a DEC_IPV4 that fits leaves. -/
def State.afterIpv4 (s : State) : State :=
  (((s.setIpv4 (Ipv4Hdr.readFrom s.buf s.pos.toNat)).setPos (s.pos.toNat + 160)).trace
    (.ipv4 (Ipv4Hdr.readFrom s.buf s.pos.toNat))).goto Stage.udp

theorem execDecIpv4_eq : execDecIpv4 s =
    .next (if s.pos.toNat + 160 ≤ s.streamLen then s.afterIpv4 else s.raiseUnderrun Stage.ipv4) := by
  have hw : ipv4Widths.sum = 160 := rfl
  unfold execDecIpv4
  split
  · next h =>
    by_cases hf : s.pos.toNat + 160 ≤ s.streamLen
    · rw [decodeSpan_fits (span := ipv4Span) hf (by decide)] at h; simp at h
    · rw [if_neg hf]
  · next vs p h =>
    by_cases hf : s.pos.toNat + 160 ≤ s.streamLen
    · rw [decodeSpan_fits (span := ipv4Span) hf (by decide), hw] at h
      simp only [Option.some.injEq, Prod.mk.injEq] at h
      obtain ⟨rfl, rfl⟩ := h
      rw [if_pos hf, Ipv4Hdr.ofFields_values]; rfl
    · rw [decodeSpan_short (span := ipv4Span) (Nat.not_le.mp hf)] at h; simp at h

/-- The state a DEC_UDP that fits leaves. -/
def State.afterUdp (s : State) : State :=
  (((s.setUdp (UdpHdr.readFrom s.buf s.pos.toNat)).setPos (s.pos.toNat + 64)).trace
    (.udp (UdpHdr.readFrom s.buf s.pos.toNat))).goto Stage.shim

theorem execDecUdp_eq : execDecUdp s =
    .next (if s.pos.toNat + 64 ≤ s.streamLen then s.afterUdp else s.raiseUnderrun Stage.udp) := by
  have hw : udpWidths.sum = 64 := rfl
  unfold execDecUdp
  split
  · next h =>
    by_cases hf : s.pos.toNat + 64 ≤ s.streamLen
    · rw [decodeSpan_fits (span := udpSpan) hf (by decide)] at h; simp at h
    · rw [if_neg hf]
  · next vs p h =>
    by_cases hf : s.pos.toNat + 64 ≤ s.streamLen
    · rw [decodeSpan_fits (span := udpSpan) hf (by decide), hw] at h
      simp only [Option.some.injEq, Prod.mk.injEq] at h
      obtain ⟨rfl, rfl⟩ := h
      rw [if_pos hf, UdpHdr.ofFields_values]; rfl
    · rw [decodeSpan_short (span := udpSpan) (Nat.not_le.mp hf)] at h; simp at h

/-- The state a DEC_SHIM that fits leaves. -/
def State.afterShim (s : State) : State :=
  (((s.setShim (ShimHdr.readFrom s.buf s.pos.toNat)).setPos (s.pos.toNat + 32)).trace
    (.shim (ShimHdr.readFrom s.buf s.pos.toNat))).goto Stage.intmeta

theorem execDecShim_eq : execDecShim s =
    .next (if s.pos.toNat + 32 ≤ s.streamLen then s.afterShim else s.raiseUnderrun Stage.shim) := by
  have hw : shimWidths.sum = 32 := rfl
  unfold execDecShim
  split
  · next h =>
    by_cases hf : s.pos.toNat + 32 ≤ s.streamLen
    · rw [decodeSpan_fits (span := shimSpan) hf (by decide)] at h; simp at h
    · rw [if_neg hf]
  · next vs p h =>
    by_cases hf : s.pos.toNat + 32 ≤ s.streamLen
    · rw [decodeSpan_fits (span := shimSpan) hf (by decide), hw] at h
      simp only [Option.some.injEq, Prod.mk.injEq] at h
      obtain ⟨rfl, rfl⟩ := h
      rw [if_pos hf, ShimHdr.ofFields_values]; rfl
    · rw [decodeSpan_short (span := shimSpan) (Nat.not_le.mp hf)] at h; simp at h

/-- The state a DEC_INTMETA that fits leaves, but for the successor. -/
def State.withIntmeta (s : State) : State :=
  ((s.setIntmeta (IntmetaHdr.readFrom s.buf s.pos.toNat)).setPos (s.pos.toNat + 64)).trace
    (.intmeta (IntmetaHdr.readFrom s.buf s.pos.toNat))

/-- The state a DEC_INTMETA that fits leaves. -/
def State.afterIntmeta (s : State) : State :=
  if s.job.nt = 0#8 then s.withIntmeta.finishJob else s.withIntmeta.goto Stage.hop

theorem execDecIntmeta_eq : execDecIntmeta s =
    .next (if s.pos.toNat + 64 ≤ s.streamLen then s.afterIntmeta else s.raiseUnderrun Stage.intmeta) := by
  have hw : intmetaWidths.sum = 64 := rfl
  unfold execDecIntmeta
  split
  · next h =>
    by_cases hf : s.pos.toNat + 64 ≤ s.streamLen
    · rw [decodeSpan_fits (span := intmetaSpan) hf (by decide)] at h; simp at h
    · rw [if_neg hf]
  · next vs p h =>
    by_cases hf : s.pos.toNat + 64 ≤ s.streamLen
    · rw [decodeSpan_fits (span := intmetaSpan) hf (by decide), hw] at h
      simp only [Option.some.injEq, Prod.mk.injEq] at h
      obtain ⟨rfl, rfl⟩ := h
      rw [if_pos hf, IntmetaHdr.ofFields_values]; rfl
    · rw [decodeSpan_short (span := intmetaSpan) (Nat.not_le.mp hf)] at h; simp at h

/-- The state a DEC_HOP that fits leaves. -/
def State.afterHop (s : State) : State :=
  (((s.setHop (HopRecord.readFrom s.buf s.pos.toNat)).setPos (s.pos.toNat + s.hopStride)).trace
    (.hop s.hopIdx (HopRecord.readFrom s.buf s.pos.toNat))).goto Stage.route

theorem execDecHop_eq (hf : Config.fphMin ≤ s.job.fph.toNat) : execDecHop s =
    .next (if s.pos.toNat + s.hopStride ≤ s.streamLen then s.afterHop else s.raiseUnderrun Stage.hop) := by
  have hs : Config.hopFieldBits ≤ s.hopStride := by
    simp only [Config.fphMin, Config.hopFieldBits, State.hopStride] at *; omega
  unfold execDecHop
  by_cases h : s.pos.toNat + s.hopStride ≤ s.streamLen
  · rw [decodeRecord_fits h hs, if_pos h]
    simp only [HopRecord.ofFields_values]; rfl
  · rw [decodeRecord_short (Nat.not_le.mp h), if_neg h]

/-- ROUTE: the drop path, or the sink's two answers. -/
theorem execRoute_eq : execRoute s =
    match sinkOf s.hdr.hop.switch_id with
    | none => .next s.advanceHop
    | some k =>
      if s.sinkReply = .fail then .next (s.emitSink k (sampleValue s.job.kind s.hdr.hop)).raiseSinkFailure
      else .next (s.emitSink k (sampleValue s.job.kind s.hdr.hop)).advanceHop := by
  unfold execRoute
  cases sinkOf s.hdr.hop.switch_id with
  | none => rfl
  | some k => dsimp only; cases s.sinkReply <;> rfl

/-- What a SUBMIT that gives a next state has done: it is held, refused, or it has started a job. -/
theorem execSubmit_cases {n : Nat} {s t : State} (h : execSubmit n s = .next t) :
    (s.busy = true ∧ t = { s with env := { s.env with held := some ⟨n, s.env.byteChannel⟩, byteChannel := [] } })
    ∨ (s.busy = false ∧ ∃ r, t = s.refuse r)
    ∨ (s.ready = true ∧ s.cfgReady = true ∧ Config.fphMin ≤ s.cfg.fph.toNat ∧ n ≤ Config.bufLenMax
        ∧ n ≤ s.env.byteChannel.length ∧ t = s.startJob n (s.env.byteChannel.take n)) := by
  unfold execSubmit at h
  split at h; · next hb => cases h; exact .inl ⟨hb, rfl⟩
  next hb =>
  have hb : s.busy = false := by simpa only [Bool.not_eq_true] using hb
  split at h; · cases h; exact .inr (.inl ⟨hb, _, rfl⟩)
  split at h; · cases h
  next hr =>
  split at h; · cases h; exact .inr (.inl ⟨hb, _, rfl⟩)
  next hc =>
  split at h; · cases h; exact .inr (.inl ⟨hb, _, rfl⟩)
  next hf =>
  split at h; · cases h; exact .inr (.inl ⟨hb, _, rfl⟩)
  next hn =>
  split at h; · cases h; exact .inr (.inl ⟨hb, _, rfl⟩)
  next hl =>
  cases h
  refine .inr (.inr ⟨?_, ?_, Nat.not_lt.mp hf, Nat.not_lt.mp hn, Nat.not_lt.mp hl, rfl⟩)
  · simpa only [Bool.not_eq_true', Bool.not_eq_false] using hr
  · simpa only [Bool.not_eq_true', Bool.not_eq_false] using hc

/-- SUBMIT stops only in a reserved STATE. -/
theorem execSubmit_next (n : Nat) (h : s.reserved = false) : ∃ t, execSubmit n s = .next t := by
  unfold execSubmit
  rcases s.class_cases with hc | hc | hc | hc
  · exact ⟨_, if_pos hc⟩
  · obtain ⟨hb, hf, -⟩ := State.ready_excludes hc
    simp only [hb, hf, hc, Bool.false_eq_true, if_false, Bool.not_true]
    split_ifs <;> exact ⟨_, rfl⟩
  · have hb : s.busy = false := by simp only [State.busy, hc]; decide
    simp only [hb, hc, Bool.false_eq_true, if_false, if_true]; exact ⟨_, rfl⟩
  · rw [h] at hc; cases hc

/-- In a reserved STATE SUBMIT is a fault. -/
theorem execSubmit_reserved (n : Nat) (h : s.reserved = true) : execSubmit n s = .fault .reservedState := by
  have codes : ∀ c : BitVec 4, 12 ≤ c.toNat → ¬ (c.toNat ≤ 8) ∧ c ≠ Stage.fatal ∧ c ≠ Stage.idle ∧ c ≠ Stage.done
      ∧ c ≠ Stage.underrun := by decide
  obtain ⟨h8, h1, h2, h3, h4⟩ := codes _ (s.reserved_iff.mp h)
  unfold execSubmit
  simp [State.busy, State.ready, h8, h1, h2, h3, h4]

end Sys2Proof.Machine
end

