-- ==== Sys2Proof/Laws/Job.lean ====
section
/-! SUPPORT. The job function's small lemmas: the sink answers taken one after another, and what tracing leaves of what a job has computed. -/

namespace Sys2Proof.Machine

theorem Env.takeSinkReplies_succ (e : Env) (n : Nat) :
    e.takeSinkReplies (n + 1) = (e.takeSinkReplies n).takeSinkReply := by
  induction n generalizing e with
  | zero => rfl
  | succ n ih =>
    show (e.takeSinkReply).takeSinkReplies (n + 1) = _
    rw [ih]; rfl

@[simp] theorem Env.takeSinkReplies_script (e : Env) (n : Nat) : (e.takeSinkReplies n).script = e.script := by
  induction n generalizing e with
  | zero => rfl
  | succ n ih => rw [Env.takeSinkReplies_succ, Env.takeSinkReply_script, ih]

@[simp] theorem Env.takeSinkReplies_held (e : Env) (n : Nat) : (e.takeSinkReplies n).held = e.held := by
  induction n generalizing e with
  | zero => rfl
  | succ n ih => rw [Env.takeSinkReplies_succ, Env.takeSinkReply_held, ih]

@[simp] theorem JobAcc.traced_hop (a : JobAcc) (t : BitVec 1) (e : TraceEvent) : (a.traced t e).hop = a.hop := by
  unfold JobAcc.traced; split <;> rfl
@[simp] theorem JobAcc.traced_pos (a : JobAcc) (t : BitVec 1) (e : TraceEvent) : (a.traced t e).pos = a.pos := by
  unfold JobAcc.traced; split <;> rfl
@[simp] theorem JobAcc.traced_hdr (a : JobAcc) (t : BitVec 1) (e : TraceEvent) : (a.traced t e).hdr = a.hdr := by
  unfold JobAcc.traced; split <;> rfl
@[simp] theorem JobAcc.traced_sinkEvents (a : JobAcc) (t : BitVec 1) (e : TraceEvent) :
    (a.traced t e).sinkEvents = a.sinkEvents := by
  unfold JobAcc.traced; split <;> rfl

/-- The records end a job in DONE, UNDERRUN or FATAL. -/
theorem jobRecords_ends (j : JobInput) (answers : Nat → SinkAnswer) (rest : Nat) : ∀ a,
    (jobRecords j answers rest a).seq = Stage.done ∨ (jobRecords j answers rest a).seq = Stage.underrun
      ∨ (jobRecords j answers rest a).seq = Stage.fatal := by
  induction rest with
  | zero => intro a; exact .inl rfl
  | succ rest ih =>
    intro a
    unfold jobRecords
    split
    · exact .inr (.inl rfl)
    · dsimp only
      split
      · exact ih _
      · split
        · exact .inr (.inr rfl)
        · exact ih _

end Sys2Proof.Machine
end

