-- ==== Sys2Proof/Laws/Memory.lean ====
section
/-! SUPPORT. BUF: every operation that makes a buffer makes a canonical one, and a loaded byte reads back. -/

namespace Sys2Proof.Machine

theorem Memory.wfFrom_mono {a b : Nat} (hab : a ≤ b) : ∀ {m : Memory}, Memory.wfFrom b m = true → Memory.wfFrom a m = true
  | [], _ => rfl
  | (k, v) :: rest, h => by
    simp only [Memory.wfFrom, Bool.and_eq_true, decide_eq_true_eq] at h ⊢
    exact ⟨⟨by omega, h.1.2⟩, h.2⟩

theorem Memory.loadFrom_wfFrom (bytes : List Byte) : ∀ a, Memory.wfFrom a (Memory.loadFrom a bytes) = true := by
  induction bytes with
  | nil => intro a; rfl
  | cons b rest ih =>
    intro a
    simp only [Memory.loadFrom]
    split
    · exact Memory.wfFrom_mono (Nat.le_succ a) (ih (a + 1))
    · next hb => simp [Memory.wfFrom, hb, ih (a + 1)]

/-- The one write of BUF keeps the canonical form. -/
theorem Memory.load_wf (bytes : List Byte) : (Memory.load bytes).wf = true := Memory.loadFrom_wfFrom bytes 0

theorem Memory.loadFrom_below (bytes : List Byte) :
    ∀ a n, a + bytes.length ≤ n → (Memory.loadFrom a bytes).below n = true := by
  induction bytes with
  | nil => intro a n _; rfl
  | cons b rest ih =>
    intro a n h
    simp only [List.length_cons] at h
    simp only [Memory.loadFrom]
    split
    · exact ih (a + 1) n (by omega)
    · have := ih (a + 1) n (by omega)
      simp only [Memory.below, List.all_cons, Bool.and_eq_true, decide_eq_true_eq] at this ⊢
      exact ⟨by omega, this⟩

/-- A loaded buffer holds no address outside the payload. -/
theorem Memory.load_below (bytes : List Byte) : (Memory.load bytes).below bytes.length = true :=
  Memory.loadFrom_below bytes 0 _ (by omega)

theorem Memory.read_loadFrom_lt (bytes : List Byte) : ∀ a x, x < a → (Memory.loadFrom a bytes).read x = Memory.unlisted := by
  induction bytes with
  | nil => intro a x _; rfl
  | cons b rest ih =>
    intro a x h
    simp only [Memory.loadFrom]
    split
    · exact ih (a + 1) x (by omega)
    · simp only [Memory.read]
      rw [if_neg (by omega)]
      exact ih (a + 1) x (by omega)

theorem Memory.read_loadFrom (bytes : List Byte) :
    ∀ a x, (Memory.loadFrom a bytes).read (a + x) = bytes.getD x Memory.unlisted := by
  induction bytes with
  | nil => intro a x; rfl
  | cons b rest ih =>
    intro a x
    simp only [Memory.loadFrom]
    cases x with
    | zero =>
      split
      · next hb => rw [Memory.read_loadFrom_lt _ _ _ (by omega)]; simp [hb]
      · simp [Memory.read]
    | succ x =>
      have hx : a + (x + 1) = a + 1 + x := by omega
      split
      · rw [hx, ih (a + 1) x]; simp
      · simp only [Memory.read]
        rw [if_neg (by omega), hx, ih (a + 1) x]; simp

/-- Every byte of the payload reads back where SUBMIT put it. -/
theorem Memory.read_load (bytes : List Byte) (x : Nat) :
    (Memory.load bytes).read x = bytes.getD x Memory.unlisted := by
  simpa [Memory.load] using Memory.read_loadFrom bytes 0 x

end Sys2Proof.Machine
end

