-- ==== Sys2Proof/Laws/PerInstr.lean ====
section
/-! SUPPORT. Statements for all instructions, made per constructor: the family RoundTrip (decoding the encoding of a well-formed operation gives it back, with every operand). -/

namespace Sys2Proof.Laws.RoundTrip

/-- Decoding the code word of a well-formed operation gives the operation back. -/
def Statement (i : Instr) : Prop := i.WellFormed = true → decode (encode i) = .ok i

theorem read (w : Nat) : Statement (.read w) := by
  intro h
  have hw : w ≤ 48 := of_decide_eq_true h
  have h13 : w < 2 ^ 13 := by omega
  simp [decode, encode, decodeCursor, cursorWord_k _ h13, cursorWord_reserved _ h13, cursorWord_w _ h13, Config.wReadMax,
    hw]

theorem skip (w : Nat) : Statement (.skip w) := by
  intro h
  have hw : w ≤ 8191 := of_decide_eq_true h
  have h13 : w < 2 ^ 13 := by omega
  simp [decode, encode, decodeCursor, cursorWord_k _ h13, cursorWord_reserved _ h13, cursorWord_w _ h13]

theorem decReport : Statement .decReport := fun _ => rfl
theorem decEth : Statement .decEth := fun _ => rfl
theorem decIpv4 : Statement .decIpv4 := fun _ => rfl
theorem decUdp : Statement .decUdp := fun _ => rfl
theorem decShim : Statement .decShim := fun _ => rfl
theorem decIntmeta : Statement .decIntmeta := fun _ => rfl
theorem decHop : Statement .decHop := fun _ => rfl
theorem route : Statement .route := fun _ => rfl

theorem cfgw (r : RegSel) (x : BitVec 16) : Statement (.cfgw r x) := by
  intro _; simp [decode, encode, decodeHost]

theorem rdreg (r : RegSel) : Statement (.rdreg r) := by
  intro _; simp [decode, encode, decodeHost]

theorem submit (len : Nat) : Statement (.submit len) := by
  intro h
  have hl : len < 65536 := of_decide_eq_true h
  simp [decode, encode, decodeHost, Nat.mod_eq_of_lt hl]

theorem rdhdr (h : HdrSel) : Statement (.rdhdr h) := by
  intro _; simp [decode, encode, decodeHost]

end Sys2Proof.Laws.RoundTrip
end

