-- ==== Sys2Proof/Laws/Step.lean ====
section
/-! SUPPORT. What a step of the core, and a step of the machine, can be: the inversion lemmas that later proofs cite instead of unfolding the step. -/

namespace Sys2Proof.Machine

/-- The core's step by STATE: no step, one of the eight sequencer operations, or a reserved code. -/
theorem coreStep_cases (s : State) :
    ((s.seq = 0x0#4 ∨ s.seq = 0x9#4 ∨ s.seq = 0xA#4 ∨ s.seq = 0xB#4) ∧ coreStep s = .next s)
    ∨ (s.seq = 0x1#4 ∧ coreStep s = execDecReport s) ∨ (s.seq = 0x2#4 ∧ coreStep s = execDecEth s)
    ∨ (s.seq = 0x3#4 ∧ coreStep s = execDecIpv4 s) ∨ (s.seq = 0x4#4 ∧ coreStep s = execDecUdp s)
    ∨ (s.seq = 0x5#4 ∧ coreStep s = execDecShim s) ∨ (s.seq = 0x6#4 ∧ coreStep s = execDecIntmeta s)
    ∨ (s.seq = 0x7#4 ∧ coreStep s = execDecHop s) ∨ (s.seq = 0x8#4 ∧ coreStep s = execRoute s)
    ∨ (12 ≤ s.seq.toNat ∧ coreStep s = .fault .reservedState) := by
  have codes : ∀ c : BitVec 4, c = 0x0#4 ∨ c = 0x1#4 ∨ c = 0x2#4 ∨ c = 0x3#4 ∨ c = 0x4#4 ∨ c = 0x5#4 ∨ c = 0x6#4
      ∨ c = 0x7#4 ∨ c = 0x8#4 ∨ c = 0x9#4 ∨ c = 0xA#4 ∨ c = 0xB#4 ∨ c = 0xC#4 ∨ c = 0xD#4 ∨ c = 0xE#4 ∨ c = 0xF#4 := by
    decide
  unfold coreStep
  rcases codes s.seq with h | h | h | h | h | h | h | h | h | h | h | h | h | h | h | h <;> rw [h] <;>
    simp [decodeSequencer, exec]

/-- A host word decodes only to one of the four host commands. -/
theorem decodeHost_cases {w : Word} {i : Instr} (h : decodeHost w = .ok i) :
    (∃ r x, i = .cfgw r x) ∨ (∃ r, i = .rdreg r) ∨ (∃ n, i = .submit n) ∨ (∃ r, i = .rdhdr r) := by
  simp only [decodeHost] at h
  split at h; · cases h
  split at h; · cases h; exact .inl ⟨_, _, rfl⟩
  split at h; · split at h <;> cases h; exact .inr (.inl ⟨_, rfl⟩)
  split at h; · split at h <;> cases h; exact .inr (.inr (.inl ⟨_, rfl⟩))
  split at h; · split at h <;> cases h; exact .inr (.inr (.inr ⟨_, rfl⟩))
  cases h

/-- A request decodes only to READ or SKIP. -/
theorem decodeCursor_cases {q : BitVec 16} {i : Instr} (h : decodeCursor q = .ok i) :
    (∃ n, i = .read n) ∨ (∃ n, i = .skip n) := by
  simp only [decodeCursor] at h
  split at h; · cases h
  split at h; · cases h; exact .inr ⟨_, rfl⟩
  split at h; · cases h; exact .inl ⟨_, rfl⟩
  cases h

/-- Outside the reserved codes the step is the acting agent's. -/
theorem step_eq_agent {s : State} (h : s.seq.toNat < 12) : step s = agentStep s := by
  simp only [step, machineStep, s.reserved_eq_false.mpr h, Bool.false_and, Bool.false_eq_true, if_false]

/-- In a reserved STATE every step but reset is a fault. -/
theorem step_reserved {s : State} (h : 12 ≤ s.seq.toNat) (hn : ∀ rest, s.env.script ≠ .resetInput :: rest) :
    step s = .fault .reservedState := by
  have hr : s.resetNext = false := by
    unfold State.resetNext
    split
    · next hs => exact absurd hs (hn _)
    · rfl
  simp only [step, machineStep, s.reserved_iff.mpr h, hr, Bool.not_false, Bool.and_self, if_true]

/-- Reset is taken in every STATE. -/
theorem step_reset {s : State} {rest : List ScriptEvent} (hs : s.env.script = .resetInput :: rest) :
    step s = .next (s.withScript rest).resetCore := by
  simp only [step, machineStep, State.resetNext, agentStep, hs, Bool.not_true, Bool.and_false, Bool.false_eq_true, if_false]

/-- A step that goes on is the acting agent's. -/
theorem agent_of_step {s t : State} (h : step s = .next t) : agentStep s = .next t := by
  unfold step machineStep at h
  split at h
  · cases h
  · exact h

/-- A step that goes on is one action of one agent: reset, the core, the host, the held SUBMIT, or the requester at the
BitCursor's port. -/
theorem step_agents {s t : State} (h : step s = .next t) :
    (∃ rest, s.env.script = .resetInput :: rest ∧ t = (s.withScript rest).resetCore)
    ∨ (∃ l, l <:+ s.env.script ∧ coreStep (s.withScript l) = .next t)
    ∨ (∃ w bytes rest, s.env.held = none ∧ s.env.script = .command w bytes :: rest
        ∧ commandStep w bytes (s.withScript rest) = .next t)
    ∨ (∃ x, s.env.held = some x ∧ s.busy = false ∧ heldStep x s = .next t)
    ∨ (∃ q rest, s.env.script = .cursorRequest q :: rest ∧ cursorStep q (s.withScript rest) = .next t) := by
  have tail : ∀ {x : ScriptEvent} {rest}, s.env.script = x :: rest → rest <:+ s.env.script :=
    fun hs => hs ▸ List.suffix_cons _ _
  have idle : ∀ {b : Bool}, ¬ b = true → b = false := fun h => by simpa only [Bool.not_eq_true] using h
  have h := agent_of_step h
  unfold agentStep at h
  split at h
  · next hs => cases h; exact .inl ⟨_, hs, rfl⟩
  · next hs _ => exact .inr (.inl ⟨_, tail hs, h⟩)
  · next hs _ => exact .inr (.inr (.inr (.inr ⟨_, _, hs, h⟩)))
  · next hs hh => exact .inr (.inr (.inl ⟨_, _, _, hh, hs, h⟩))
  · exact .inr (.inl ⟨_, List.suffix_refl _, h⟩)
  · next hs hh =>
    split at h
    · exact .inr (.inl ⟨_, tail hs, h⟩)
    · next hb => exact .inr (.inr (.inr (.inl ⟨_, hh, idle hb, h⟩)))
  · next hs hh =>
    split at h
    · exact .inr (.inr (.inr (.inr ⟨_, _, hs, h⟩)))
    · next hb => exact .inr (.inr (.inr (.inl ⟨_, hh, idle hb, h⟩)))
  · next hh =>
    split at h
    · exact .inr (.inl ⟨_, List.suffix_refl _, h⟩)
    · next hb => exact .inr (.inr (.inr (.inl ⟨_, hh, idle hb, h⟩)))
  · next hh =>
    split at h
    · exact .inr (.inl ⟨_, List.suffix_refl _, h⟩)
    · next hb => exact .inr (.inr (.inr (.inl ⟨_, hh, idle hb, h⟩)))

/-- Whose operation a step runs from `s`: the core's by STATE, the host's next command, a held SUBMIT, or a direct
request's. -/
def State.MayRun (s : State) (i : Instr) : Prop :=
  decodeSequencer s.seq = .ok i
    ∨ (∃ w bytes rest, s.env.script = .command w bytes :: rest ∧ decodeHost w = .ok i)
    ∨ (∃ h, s.env.held = some h ∧ s.busy = false ∧ i = .submit h.len)
    ∨ (∃ q rest, s.env.script = .cursorRequest q :: rest ∧ decodeCursor q = .ok i)

/-- A step that goes on is the reset action, one operation at a state that differs only in the environment, or no change
of the core at all (a core without a step, an illegal word). -/
theorem step_cases {s t : State} (h : step s = .next t) :
    (∃ rest, s.env.script = .resetInput :: rest ∧ t = (s.withScript rest).resetCore)
    ∨ (∃ i e, e.script <:+ s.env.script ∧ exec i { s with env := e } = .next t ∧ s.MayRun i)
    ∨ (∃ e, e.script <:+ s.env.script ∧ t = { s with env := e }) := by
  rcases step_agents h with h | ⟨l, hl, h⟩ | ⟨w, b, rest, -, hs, h⟩ | ⟨x, hx, hb, h⟩ | ⟨q, rest, hs, h⟩
  · exact .inl h
  · unfold coreStep at h
    split at h
    · next i hd => exact .inr (.inl ⟨i, (s.withScript l).env, hl, h, .inl hd⟩)
    · cases h; exact .inr (.inr ⟨(s.withScript l).env, hl, rfl⟩)
    · cases h
  · have hl : rest <:+ s.env.script := hs ▸ List.suffix_cons _ _
    unfold commandStep at h
    split at h
    · next i hd =>
      exact .inr (.inl ⟨i, { (s.withScript rest).env with byteChannel := b }, hl, h, .inr (.inl ⟨_, _, _, hs, hd⟩)⟩)
    · cases h
      exact .inr (.inr ⟨{ s.env with script := rest, byteChannel := b, refusals := s.env.refusals ++ [.illegalWord] }, hl, rfl⟩)
  · exact .inr (.inl ⟨.submit x.len, { s.env with held := none, byteChannel := x.bytes }, List.suffix_refl _, h,
      .inr (.inr (.inl ⟨x, hx, hb, rfl⟩))⟩)
  · unfold cursorStep at h
    split at h
    · next i hd =>
      exact .inr (.inl ⟨i, (s.withScript rest).env, hs ▸ List.suffix_cons _ _, h, .inr (.inr (.inr ⟨q, rest, hs, hd⟩))⟩)
    · cases h

/-- With no input left and no SUBMIT held the step is the core's. -/
theorem step_alone {s : State} (hs : s.env.script = []) (hh : s.env.held = none) : step s = coreStep s := by
  by_cases h : s.seq.toNat < 12
  · simp only [step_eq_agent h, agentStep, hs, hh]
  · rw [step_reserved (Nat.not_lt.mp h) (fun _ hr => by simp [hs] at hr)]
    rcases coreStep_cases s with ⟨hc | hc | hc | hc, -⟩ | ⟨hc, -⟩ | ⟨hc, -⟩ | ⟨hc, -⟩ | ⟨hc, -⟩ | ⟨hc, -⟩ | ⟨hc, -⟩ | ⟨hc, -⟩
      | ⟨hc, -⟩ | ⟨-, e⟩
    all_goals first | exact e.symm | exact absurd h (by rw [hc]; decide)

/-- A run takes its first step. -/
theorem run_next {s t : State} (h : step s = .next t) (n : Nat) :
    Sys2Proof.core.run (n + 1) s = Sys2Proof.core.run n t := by
  simp only [Host.Core.run, show Sys2Proof.core.step s = .next t from h]

/-- A state that steps to itself stays. -/
theorem run_stays {s : State} (h : step s = .next s) (n : Nat) : Sys2Proof.core.run n s = .next s := by
  induction n with
  | zero => rfl
  | succ n ih => rw [run_next h, ih]

end Sys2Proof.Machine
end

