-- ==== Sys2Proof/Tests/Slice0.lean ====
section
/-! SUPPORT. Tests with expected results from the spec's own encodings, tables and examples, and one named witness of the hypotheses of every statement that has some. -/

namespace Sys2Proof.Tests.Slice0

open Sys2Proof Sys2Proof.Machine

/-! ### Helpers -/

/-- The state after reset with a payload loaded, POS at `p` and STATE `c`. -/
def loaded (c : BitVec 4) (p : Nat) (bytes : List Byte) : State :=
  { State.reset with seq := c, pos := BitVec.ofNat 19 p, buf := Memory.load bytes, len := BitVec.ofNat 16 bytes.length }

/-- A payload of `n` zero bytes, which BUF lists no cell of. -/
def zeros (c : BitVec 4) (p n : Nat) : State :=
  { State.reset with seq := c, pos := BitVec.ofNat 19 p, len := BitVec.ofNat 16 n }

/-- A view of the next state; nothing on a fault or a refusal. -/
def after {α : Type} (o : Host.Outcome State Fault Refusal) (f : State → α) : Option α :=
  match o with
  | .next t => some (f t)
  | .fault _ => none
  | .refused _ => none

/-- The fault a step stops with. -/
def faultOf (o : Host.Outcome State Fault Refusal) : Option Fault :=
  match o with
  | .fault r => some r
  | .next _ => none
  | .refused _ => none

/-- The operation a decoder gives; nothing where it rejects. -/
def accepted (o : Except Reject Instr) : Option Instr :=
  match o with
  | .ok i => some i
  | .error _ => none

/-- Why a decoder rejects. -/
def rejection (o : Except Reject Instr) : Option Reject :=
  match o with
  | .ok _ => none
  | .error r => some r

/-- A job's configuration: KIND, FPH, NT, TRACE. -/
def withJob (s : State) (k : BitVec 1) (f n : BitVec 8) (t : BitVec 1) : State := { s with job := ⟨k, f, n, t⟩ }

/-- All four configuration registers written. -/
def configured (s : State) (k : BitVec 1) (f n : BitVec 8) (t : BitVec 1) : State :=
  { s with cfg := ⟨k, f, n, t, true, true, true, true⟩ }

/-! ### WellFormed refuses each ill-formed term (`30_encoding.md` R55, R56) -/

theorem test_wf_read_49 : (Instr.read 49).WellFormed = false := by decide
theorem test_wf_read_48 : (Instr.read 48).WellFormed = true := by decide
theorem test_wf_skip_8192 : (Instr.skip 8192).WellFormed = false := by decide
theorem test_wf_skip_8191 : (Instr.skip 8191).WellFormed = true := by decide
theorem test_wf_submit_65536 : (Instr.submit 65536).WellFormed = false := by decide
theorem test_wf_submit_65535 : (Instr.submit 65535).WellFormed = true := by decide

/-! ### Every constructor's word, its fields written out from the spec (R55, R56, `10_state.md` R15) -/

-- [15] K = 0, [14:13] = 00, [12:0] = 48
theorem test_decode_read : accepted (decodeCursor 0b0000000000110000#16) = some (.read 48) := by decide
-- [15] K = 1, [14:13] = 00, [12:0] = 7904
theorem test_decode_skip : accepted (decodeCursor 0b1001111011100000#16) = some (.skip 7904) := by decide
theorem test_decode_decReport : accepted (decodeSequencer 0b0001#4) = some .decReport := by decide
theorem test_decode_decEth : accepted (decodeSequencer 0b0010#4) = some .decEth := by decide
theorem test_decode_decIpv4 : accepted (decodeSequencer 0b0011#4) = some .decIpv4 := by decide
theorem test_decode_decUdp : accepted (decodeSequencer 0b0100#4) = some .decUdp := by decide
theorem test_decode_decShim : accepted (decodeSequencer 0b0101#4) = some .decShim := by decide
theorem test_decode_decIntmeta : accepted (decodeSequencer 0b0110#4) = some .decIntmeta := by decide
theorem test_decode_decHop : accepted (decodeSequencer 0b0111#4) = some .decHop := by decide
theorem test_decode_route : accepted (decodeSequencer 0b1000#4) = some .route := by decide
-- OP 1, SEL 1 (FIELDS_PER_HOP), [23:16] = 0, IMM = 10
theorem test_decode_cfgw :
    accepted (decodeHost 0b00010001000000000000000000001010#32) = some (.cfgw .fieldsPerHop 10#16) := by decide
-- OP 2, SEL 4 (STATUS), IMM = 0
theorem test_decode_rdreg : accepted (decodeHost 0b00100100000000000000000000000000#32) = some (.rdreg .status) := by
  decide
-- OP 3, SEL 0, IMM = 190
theorem test_decode_submit : accepted (decodeHost 0b00110000000000000000000010111110#32) = some (.submit 190) := by decide
-- OP 4, SEL 6 (HOP), IMM = 0
theorem test_decode_rdhdr : accepted (decodeHost 0b01000110000000000000000000000000#32) = some (.rdhdr .hop) := by decide
-- A SEL that names nothing decodes: the command refuses it (R105, BadRegister and BadHeader)
theorem test_decode_reserved_register :
    accepted (decodeHost 0x2F000000#32) = some (.rdreg (.reserved 8)) := by decide

/-! ### Illegal words, by name (R59) -/

theorem test_reject_op : rejection (decodeHost 0x50000000#32) = some .badOp := by decide
theorem test_reject_host_reserved : rejection (decodeHost 0x10010000#32) = some .hostReservedBits := by decide
theorem test_reject_sel : rejection (decodeHost 0x31000000#32) = some .selNotZero := by decide
theorem test_reject_imm : rejection (decodeHost 0x24000001#32) = some .immNotZero := by decide
theorem test_reject_cursor_reserved : rejection (decodeCursor 0x2001#16) = some .cursorReservedBits := by decide
theorem test_reject_read_49 : rejection (decodeCursor 0x0031#16) = some .readTooWide := by decide
theorem test_reject_state : rejection (decodeSequencer 0xC#4) = some .reservedState := by decide
theorem test_reject_idle : rejection (decodeSequencer 0x0#4) = some .noOperation := by decide

/-! ### One step each; the expected values are the spec's examples -/

-- `40_bitcursor.md` R64: BUF = A5 3C, READ 3 gives 5 and POS 3
theorem test_read : after (exec (.read 3) (loaded 0x1#4 0 [0xA5#8, 0x3C#8])) (fun t => (t.pos.toNat, t.env.answers)) =
    some (3, [.readValue 3 5#48]) := by decide
-- R64: width 0 at the end of an empty payload
theorem test_read_zero : after (exec (.read 0) (zeros 0x1#4 0 0)) (fun t => (t.seq, t.pos.toNat)) = some (0x1#4, 0) := by
  decide
-- R66: five zero bytes, SKIP 32 from 8 gives 40; a further SKIP 1 underruns with POS 40
theorem test_skip : after (exec (.skip 32) (zeros 0x7#4 8 5)) (fun t => t.pos.toNat) = some 40 := by decide
theorem test_skip_underrun :
    after (exec (.skip 1) (zeros 0x7#4 40 5)) (fun t => (t.pos.toNat, t.seq, t.errStage, t.result)) =
      some (40, 0xA#4, 0x7#4, 2#2) := by decide
-- `41_headers.md` R73
theorem test_decReport :
    after (exec .decReport (loaded 0x1#4 0 [0x14#8, 0xB5#8, 0x01#8, 0x55#8, 0#8, 0#8, 0#8, 1#8, 0#8, 0#8, 1#8, 2#8, 0xDE#8,
      0xAD#8, 0xBE#8, 0xEF#8])) (fun t => t.hdr.report) =
      some ⟨1, 4, 5, 0x2A, 0, 1, 0, 1, 0x15, 1, 0x102, 0xDEADBEEF⟩ := by decide
-- R73: LEN = 15 underruns with POS 0
theorem test_decReport_underrun :
    after (exec .decReport (zeros 0x1#4 0 15)) (fun t => (t.seq, t.errStage, t.pos.toNat, t.hdr.vReport)) =
      some (0xA#4, 0x1#4, 0, false) := by decide
-- R77
theorem test_decShim : after (exec .decShim (loaded 0x5#4 0 [0x01#8, 0x00#8, 0x0E#8, 0x5C#8])) (fun t => t.hdr.shim) =
    some ⟨1, 0, 14, 0x17, 0⟩ := by decide
-- R78
theorem test_decIntmeta :
    after (exec .decIntmeta (withJob (loaded 0x6#4 0 [0x10#8, 0#8, 0x0A#8, 5#8, 0xF3#8, 0#8, 0#8, 0#8]) 0 8 1 0))
      (fun t => (t.hdr.intmeta, t.seq)) = some (⟨1, 0, 0, 0, 0, 0, 0, 10, 5, 0xF, 3, 0, 0, 0⟩, 0x7#4) := by decide
-- R78: NT = 0 ends the job as DONE
theorem test_decIntmeta_no_transits :
    after (exec .decIntmeta (zeros 0x6#4 496 70)) (fun t => (t.seq, t.result, t.pos.toNat)) = some (0x9#4, 1#2, 560) := by
  decide
-- R74
theorem test_decEth :
    after (exec .decEth (loaded 0x2#4 0 [0#8, 0x11#8, 0x22#8, 0x33#8, 0x44#8, 0x55#8, 0x66#8, 0x77#8, 0x88#8, 0x99#8,
      0xAA#8, 0xBB#8, 8#8, 0#8])) (fun t => t.hdr.eth) = some ⟨0x001122334455, 0x66778899AABB, 0x0800⟩ := by decide
-- R75
theorem test_decIpv4 :
    after (exec .decIpv4 (loaded 0x3#4 0 [0x45#8, 0xB9#8, 0#8, 0x54#8, 0x12#8, 0x34#8, 0x4A#8, 0xBC#8, 0x40#8, 0x11#8,
      0xAB#8, 0xCD#8, 0x0A#8, 0#8, 0#8, 1#8, 0x0A#8, 0#8, 0#8, 2#8])) (fun t => t.hdr.ipv4) =
      some ⟨4, 5, 0x2E, 1, 0x54, 0x1234, 2, 0xABC, 64, 17, 0xABCD, 0x0A000001, 0x0A000002⟩ := by decide
-- R76
theorem test_decUdp :
    after (exec .decUdp (loaded 0x4#4 0 [4#8, 0xD2#8, 0x16#8, 0x2E#8, 0#8, 0x50#8, 0#8, 0#8])) (fun t => t.hdr.udp) =
      some ⟨1234, 5678, 0x50, 0⟩ := by decide

/-- The record of the example of `42_perhop.md` R80 at byte 70, its non-zero bytes as BUF's cells. -/
def recordState : State :=
  let s := withJob (zeros 0x7#4 560 190) 0 10 3 0
  { s with buf := [(73, 2#8), (75, 5#8), (77, 7#8), (81, 0xFA#8), (82, 3#8), (84, 1#8), (85, 0xF4#8)] }

-- R80
theorem test_decHop : after (exec .decHop recordState) (fun t => (t.hdr.hop, t.pos.toNat, t.seq)) =
    some (⟨2, 5, 7, 250, 3, 500, 0, 0, 0, 0, 0⟩, 880, 0x8#4) := by decide
-- R80: the check is on the whole stride, so a record cut in its skipped part is not decoded
theorem test_decHop_stride :
    after (exec .decHop (withJob (zeros 0x7#4 560 109) 0 10 3 0)) (fun t => (t.seq, t.pos.toNat, t.hdr.vHop)) =
      some (0xA#4, 560, false) := by decide

/-- A record of switch id 2 and latency 250 in ROUTE, record 1 of 3 (`43_demux.md` R86's example), and the sink's answer. -/
def routeState (sid : BitVec 32) (a : SinkAnswer) : State :=
  let s := withJob (zeros 0x8#4 1200 190) 0 10 3 0
  { s with hopIdx := 1, hdr := { s.hdr with hop := { HopRecord.zero with switch_id := sid, hop_latency := 250 } },
           env := { s.env with sinkAnswers := [a] } }

-- R86
theorem test_route : after (exec .route (routeState 2 .ok)) (fun t => (t.sinkLog, t.hopIdx, t.seq)) =
    some ([⟨.sink2, 250, .ok⟩], 2, 0x7#4) := by decide
-- R86: id 0 is dropped with no event
theorem test_route_drop : after (exec .route (routeState 0 .fail)) (fun t => (t.sinkLog, t.hopIdx, t.seq)) =
    some ([], 2, 0x7#4) := by decide
-- R104: fail ends the job as FATAL with HOP_IDX kept and the event logged
theorem test_route_fail : after (exec .route (routeState 2 .fail)) (fun t => (t.sinkLog, t.hopIdx, t.seq, t.errStage)) =
    some ([⟨.sink2, 250, .fail⟩], 1, 0xB#4, 0x8#4) := by decide

-- `44_pipeline.md` R95's example
theorem test_cfgw : after (exec (.cfgw .fieldsPerHop 10) State.reset) (fun t => (t.cfg.fph, t.cfg.wFph)) =
    some (10, true) := by decide
-- `10_state.md` R24: STATUS is read-only
theorem test_cfgw_status : after (exec (.cfgw .status 0) State.reset) (fun t => t.env.refusals) = some [.badRegister] := by
  decide
-- R96's example: STATUS after Scenario C is 0x000409EA
theorem test_rdreg_status :
    after (exec (.rdreg .status) { configured State.reset 0 10 3 0 with seq := 0xA, result := 2, errStage := 7, hopIdx := 2 })
      (fun t => t.env.answers) = some [.regWord 0x000409EA#32] := by decide
-- R96: an unwritten register has no value
theorem test_rdreg_unwritten : after (exec (.rdreg .numTransits) State.reset) (fun t => t.env.refusals) =
    some [.configUnwritten] := by decide

/-- A configured core whose byte channel carries `n` zero bytes (R94's example). -/
def submitState (n : Nat) : State :=
  let s := configured State.reset 0 10 3 0
  { s with env := { s.env with byteChannel := List.replicate n 0#8 } }

-- R94's example
set_option maxRecDepth 4000 in
theorem test_submit : after (exec (.submit 190) (submitState 190))
    (fun t => (t.len.toNat, t.pos.toNat, t.job.fph, t.job.nt, t.seq)) = some (190, 0, 10, 3, 0x1#4) := by decide
-- R105: FPH below 8
theorem test_submit_small_stride : after (exec (.submit 0) { submitState 0 with cfg := ⟨0, 7, 3, 0, true, true, true, true⟩ })
    (fun t => t.env.refusals) = some [.fieldsPerHopTooSmall] := by decide
-- R97: an invalid header answers no fields
theorem test_rdhdr_invalid : after (exec (.rdhdr .eth) State.reset) (fun t => t.env.answers) = some [.header none] := by
  decide
-- R97: the valid bit, then the fields
theorem test_rdhdr_shim :
    after (exec (.rdhdr .shim) { State.reset with hdr := { HdrRegs.reset with shim := ⟨1, 0, 14, 0x17, 0⟩, vShim := true } })
      (fun t => t.env.answers) = some [.header (some (.shim ⟨1, 0, 14, 0x17, 0⟩))] := by decide

/-! ### The interface: a placed table word runs next (log 14) -/

theorem test_fetch_host : after (step (State.reset.withFetchWord 32 0x11000008)) (fun t => t.cfg.fph) = some 8 := by decide
theorem test_fetch_sequencer : after (step (State.reset.withFetchWord 8 0x1)) (fun t => t.seq) = some 0xA#4 := by decide
theorem test_fetch_cursor : after (step (State.reset.withFetchWord 16 0x0000)) (fun t => t.env.answers) =
    some [.readValue 0 0#48] := by decide

/-! ### The text form (`30_encoding.md` R61, R62) -/

-- R95's example with its word
theorem test_assemble_cfgw : assemble "CFGW FIELDS_PER_HOP, 10 ; stride".toList = some [.command 0x1100000A#32 []] := by
  decide
theorem test_assemble_config : assemble "CONFIG hop_latency, 10, 3, off".toList =
    some [.command 0x10000000#32 [], .command 0x1100000A#32 [], .command 0x12000003#32 [], .command 0x13000000#32 []] := by
  decide

/-! ### The parameters obey `00_scope.md` R7 -/

theorem test_parameters : Config.bufLenMax < 2 ^ Config.lenW ∧ 8 * Config.bufLenMax < 2 ^ Config.posW
    ∧ 32 * Config.fphMin = Config.hopFieldBits ∧ 32 * (2 ^ Config.fphW - 1) - Config.hopFieldBits ≤ Config.wSkipMax
    ∧ 128 + 112 + 160 + 64 + 32 + 64 = Config.fixedHdrBits := by decide

/-! ### Witnesses: for every statement with hypotheses, states and operands that meet all of them together, at the boundary values of each clause -/

theorem witness_DecodeOfEncodeIsIdentity : (Instr.read 48).WellFormed = true ∧ (Instr.skip 8191).WellFormed = true
    ∧ (Instr.submit 65535).WellFormed = true ∧ (Instr.cfgw (.reserved 8) 0xFFFF#16).WellFormed = true := by decide

theorem witness_DecodedWordIsItsOwnEncoding : decode (.cursor 0x9FFF#16) = .ok (.skip 8191)
    ∧ decode (.host 0x3000FFFF#32) = .ok (.submit 65535) ∧ decode (.sequencer 0x8#4) = .ok .route := ⟨rfl, rfl, rfl⟩

theorem witness_IllegalWordsAreExactlyTheListed :
    (∃ r, decodeHost 0x00000000#32 = .error r) ∧ (∃ r, decodeHost 0x50000000#32 = .error r)
    ∧ (∃ r, decodeHost 0x10800000#32 = .error r) ∧ (∃ r, decodeHost 0x20000001#32 = .error r)
    ∧ (∃ r, decodeHost 0x40008000#32 = .error r) ∧ (∃ r, decodeHost 0x38000000#32 = .error r)
    ∧ (∃ i, decodeHost 0x4F000000#32 = .ok i) ∧ (∃ r, decodeCursor 0x8000#16 = .ok r)
    ∧ (∃ r, decodeCursor 0xC000#16 = .error r) ∧ (∃ r, decodeCursor 0x0031#16 = .error r)
    ∧ decodeSequencer 0xF#4 = .error .reservedState ∧ decodeSequencer 0xB#4 = .error .noOperation :=
  ⟨⟨_, rfl⟩, ⟨_, rfl⟩, ⟨_, rfl⟩, ⟨_, rfl⟩, ⟨_, rfl⟩, ⟨_, rfl⟩, ⟨_, rfl⟩, ⟨_, rfl⟩, ⟨_, rfl⟩, ⟨_, rfl⟩, rfl, rfl⟩

/-- A state with the given script and no SUBMIT held. -/
def scripted (s : State) (l : List ScriptEvent) : State := { s with env := { s.env with script := l } }

theorem witness_StepRunsTheSelectedOperation_coreTurn :
    let s := scripted (zeros 0x8#4 0 0) [.coreTurn]
    s.env.held = none ∧ s.env.script = .coreTurn :: [] ∧ decodeSequencer s.seq = .ok .route := ⟨rfl, rfl, rfl⟩
theorem witness_StepRunsTheSelectedOperation_alone :
    let s := zeros 0x1#4 0 0
    s.env.held = none ∧ s.env.script = [] ∧ decodeSequencer s.seq = .ok .decReport := ⟨rfl, rfl, rfl⟩
theorem witness_StepRunsTheSelectedOperation_command :
    let s := scripted State.reset [.command 0x24000000#32 []]
    s.seq.toNat < 12 ∧ s.env.held = none ∧ s.env.script = .command 0x24000000#32 [] :: []
    ∧ decodeHost 0x24000000#32 = .ok (.rdreg .status) := ⟨by decide, rfl, rfl, rfl⟩
theorem witness_StepRunsTheSelectedOperation_request :
    let s := scripted (zeros 0xB#4 0 0) [.cursorRequest 0x0030#16]
    s.seq.toNat < 12 ∧ s.env.held = none ∧ s.env.script = .cursorRequest 0x0030#16 :: []
    ∧ decodeCursor 0x0030#16 = .ok (.read 48) := ⟨by decide, rfl, rfl, rfl⟩

theorem witness_PlacedWordIsTheNextOperation : (decodeTableWord 8 0x8 = some .route ∧ (8 : Nat) ≤ 8)
    ∧ (decodeTableWord 16 0x9FFF = some (.skip 8191) ∧ (zeros 0xB#4 0 0).seq.toNat < 12 ∧ 8 < 16 ∧ (16 : Nat) ≤ 16)
    ∧ (decodeTableWord 32 0x30000001 = some (.submit 1) ∧ State.reset.seq.toNat < 12 ∧ 16 < 32)
    ∧ (decodeTableWord 32 0x24000000 = some (.rdreg .status) ∧ ∀ n, Instr.rdreg .status ≠ .submit n) := by
  refine ⟨⟨rfl, ?_⟩, ⟨rfl, ?_⟩, ⟨rfl, ?_⟩, rfl, fun _ h => ?_⟩
  · decide
  · decide
  · decide
  · cases h

theorem witness_TerminalStatesHaveNoCoreStep : (zeros 0x0#4 0 0).seq = Stage.idle ∧ (zeros 0x9#4 0 0).seq = Stage.done
    ∧ (zeros 0xA#4 0 0).seq = Stage.underrun ∧ (zeros 0xB#4 0 0).seq = Stage.fatal := ⟨rfl, rfl, rfl, rfl⟩

theorem witness_ReservedStateAndIllegalRequestsFault : 12 ≤ (zeros 0xC#4 0 0).seq.toNat ∧ 12 ≤ (zeros 0xF#4 0 0).seq.toNat
    ∧ (∀ rest, (scripted (zeros 0xC#4 0 0) [.command 0x10000000#32 []]).env.script ≠ .resetInput :: rest)
    ∧ decodeCursor 0x2000#16 = .error .cursorReservedBits ∧ (48 : Nat) < 49 ∧ (8191 : Nat) < 8192 := by
  refine ⟨by decide, by decide, fun _ h => ?_, rfl, by decide, by decide⟩
  cases h
theorem test_illegal_request_faults : faultOf (exec (.read 49) (zeros 0x1#4 0 10)) = some .illegalCursorRequest
    ∧ faultOf (coreStep (zeros 0xD#4 0 0)) = some .reservedState := by decide

/-- A configured core in a reserved STATE, with a SUBMIT's bytes on the byte channel and the given script. -/
def reservedState (l : List ScriptEvent) : State := { scripted (submitState 1) l with seq := 0xC#4 }

-- `10_state.md` R15: only a ready core takes a SUBMIT, and a reserved STATE is not stepped on from
theorem test_reserved_state_stops_the_host : faultOf (exec (.submit 1) (reservedState [])) = some .reservedState
    ∧ faultOf (step (reservedState [.command 0x30000000#32 []])) = some .reservedState
    ∧ faultOf (step (reservedState [.command 0x10000000#32 []])) = some .reservedState := by decide
-- `44_pipeline.md` R91's last row: reset is taken in any STATE
theorem test_reserved_state_is_left_by_reset : after (step (reservedState [.resetInput])) (fun t => t.seq) = some 0x0#4 := by
  decide

theorem witness_ReadReturnsBitsAtPosition :
    let s := zeros 0x1#4 3 7
    ((48 : Nat) ≤ 48 ∧ s.pos.toNat + 48 ≤ 8 * s.len.toNat) ∧ (zeros 0x1#4 56 7).pos.toNat ≤ 8 * (zeros 0x1#4 56 7).len.toNat := by
  decide
theorem witness_SkipMovesPositionOnly :
    let s := zeros 0x7#4 1 1024
    ((8191 : Nat) ≤ 8191 ∧ s.pos.toNat + 8191 ≤ 8 * s.len.toNat) ∧ (zeros 0x7#4 0 0).pos.toNat ≤ 8 * (zeros 0x7#4 0 0).len.toNat
    ∧ 8 * (zeros 0x7#4 2 1024).len.toNat < (zeros 0x7#4 2 1024).pos.toNat + 8191 := by decide
theorem witness_CursorChecksBoundFirst :
    let s := zeros 0x1#4 1 6
    let t := zeros 0x1#4 0 6
    (8 * s.len.toNat < s.pos.toNat + 48 ∧ (48 : Nat) ≤ 48) ∧ (t.pos.toNat + 48 ≤ 8 * t.len.toNat ∧ (48 : Nat) ≤ 48) := by decide
theorem witness_ReadValueInRangeAndPositionInBuffer :
    let s := loaded 0x1#4 0 [0xFF#8]
    ∃ t v, s.pos.toNat ≤ 8 * s.len.toNat ∧ exec (.read 8) s = .next t ∧ t.env.answers = s.env.answers ++ [.readValue 8 v] :=
  ⟨_, _, by decide, rfl, rfl⟩
theorem witness_StreamBitsAreMostSignificantFirst :
    (1 : Nat) < [0x80#8, 0x01#8].length ∧ (7 : Nat) < 8 ∧ streamBit (Memory.load [0x80#8, 0x01#8]) (8 * 1 + 7) = true := by decide
theorem witness_LoadedBufferIsCanonicalAndReadsBack :
    let m : Memory := [(0, 1#8), (65534, 0xFF#8)]
    m.wf = true ∧ m.wf = true ∧ ∀ a, m.read a = m.read a := ⟨by decide, by decide, fun _ => rfl⟩

theorem witness_DecReportReadsItsFieldsOrUnderruns :
    (zeros 0x1#4 0 16).pos.toNat + 128 ≤ 8 * (zeros 0x1#4 0 16).len.toNat
    ∧ 8 * (zeros 0x1#4 0 15).len.toNat < (zeros 0x1#4 0 15).pos.toNat + 128 := by decide
theorem witness_DecEthReadsItsFieldsOrUnderruns :
    (zeros 0x2#4 128 30).pos.toNat + 112 ≤ 8 * (zeros 0x2#4 128 30).len.toNat
    ∧ 8 * (zeros 0x2#4 128 29).len.toNat < (zeros 0x2#4 128 29).pos.toNat + 112 := by decide
theorem witness_DecIpv4ReadsItsFieldsOrUnderruns :
    (zeros 0x3#4 240 50).pos.toNat + 160 ≤ 8 * (zeros 0x3#4 240 50).len.toNat
    ∧ 8 * (zeros 0x3#4 240 49).len.toNat < (zeros 0x3#4 240 49).pos.toNat + 160 := by decide
theorem witness_DecUdpReadsItsFieldsOrUnderruns :
    (zeros 0x4#4 400 58).pos.toNat + 64 ≤ 8 * (zeros 0x4#4 400 58).len.toNat
    ∧ 8 * (zeros 0x4#4 400 57).len.toNat < (zeros 0x4#4 400 57).pos.toNat + 64 := by decide
theorem witness_DecShimReadsItsFieldsOrUnderruns :
    (zeros 0x5#4 464 62).pos.toNat + 32 ≤ 8 * (zeros 0x5#4 464 62).len.toNat
    ∧ 8 * (zeros 0x5#4 464 61).len.toNat < (zeros 0x5#4 464 61).pos.toNat + 32 := by decide
theorem witness_DecIntmetaReadsItsFieldsOrUnderruns :
    (zeros 0x6#4 496 70).pos.toNat + 64 ≤ 8 * (zeros 0x6#4 496 70).len.toNat
    ∧ 8 * (zeros 0x6#4 496 69).len.toNat < (zeros 0x6#4 496 69).pos.toNat + 64 := by decide
theorem witness_DecHopReadsOneRecordOrUnderruns :
    let s := withJob (zeros 0x7#4 560 102) 0 8 1 0
    let t := withJob (zeros 0x7#4 560 101) 0 8 1 0
    (8 ≤ s.job.fph.toNat ∧ s.pos.toNat + 32 * s.job.fph.toNat ≤ 8 * s.len.toNat)
    ∧ (8 ≤ t.job.fph.toNat ∧ 8 * t.len.toNat < t.pos.toNat + 32 * t.job.fph.toNat) := by decide
theorem witness_DecHopWithShortStrideFaults :
    let s := withJob (zeros 0x7#4 0 32) 0 7 1 0
    let t := withJob (zeros 0x7#4 0 31) 0 7 1 0
    (s.job.fph.toNat < 8 ∧ s.pos.toNat + 256 ≤ 8 * s.len.toNat)
    ∧ (t.job.fph.toNat < 8 ∧ 8 * t.len.toNat < t.pos.toNat + 256) := by decide

/-- The last record of the job, HOP_IDX + 1 = NT. -/
def lastRouteState (sid : BitVec 32) (a : SinkAnswer) : State := { routeState sid a with hopIdx := 2 }

theorem witness_RouteHandsOverOrDrops :
    (let s := routeState 5 .ok; s.hopIdx.toNat < s.job.nt.toNat ∧ sinkOf s.hdr.hop.switch_id = none)
    ∧ (let s := lastRouteState 5 .ok
       s.hopIdx.toNat < s.job.nt.toNat ∧ s.hopIdx.toNat + 1 = s.job.nt.toNat ∧ sinkOf s.hdr.hop.switch_id = none)
    ∧ (let s := lastRouteState 4 .ok
       s.hopIdx.toNat < s.job.nt.toNat ∧ s.hopIdx.toNat + 1 = s.job.nt.toNat
         ∧ sinkOf s.hdr.hop.switch_id = some .sink4 ∧ s.sinkReply = .ok)
    ∧ (let s := lastRouteState 1 .fail
       s.hopIdx.toNat < s.job.nt.toNat ∧ s.hopIdx.toNat + 1 = s.job.nt.toNat
         ∧ sinkOf s.hdr.hop.switch_id = some .sink1 ∧ s.sinkReply = .fail)
    ∧ (let s := routeState 4 .ok
       s.hopIdx.toNat < s.job.nt.toNat ∧ sinkOf s.hdr.hop.switch_id = some .sink4 ∧ s.sinkReply = .ok)
    ∧ (let s := routeState 1 .fail
       s.hopIdx.toNat < s.job.nt.toNat ∧ sinkOf s.hdr.hop.switch_id = some .sink1 ∧ s.sinkReply = .fail) := by decide
theorem witness_SampleValueFollowsKind : ∃ t, exec .route (routeState 2 .ok) = .next t := ⟨_, rfl⟩
theorem witness_CfgwWritesItsRegisterOrIsRefused : (1#16).toNat < 2 ∧ 2 ≤ (2#16).toNat ∧ (255#16).toNat < 256
    ∧ 256 ≤ (256#16).toNat ∧ 4 ≤ RegSel.status.code.toNat ∧ 4 ≤ (RegSel.reserved 8).code.toNat := by decide

theorem witness_SubmitStartsAJob :
    let s := submitState 1
    (s.seq = Stage.idle ∨ s.seq = Stage.done ∨ s.seq = Stage.underrun)
    ∧ (s.cfg.wKind && s.cfg.wFph && s.cfg.wNt && s.cfg.wTrace) = true ∧ 8 ≤ s.cfg.fph.toNat ∧ (1 : Nat) ≤ 65535
    ∧ 1 ≤ s.env.byteChannel.length := by decide
theorem witness_SubmitRefusalsInOrder :
    (zeros 0xB#4 0 0).seq = Stage.fatal ∧ (zeros 0x9#4 0 0).seq = Stage.done ∧ (zeros 0x9#4 0 0).cfgReady = false
    ∧ (configured State.reset 0 7 0 0).cfgReady = true ∧ (configured State.reset 0 7 0 0).cfg.fph.toNat < 8
    ∧ (submitState 0).cfgReady = true ∧ 8 ≤ (submitState 0).cfg.fph.toNat ∧ (65535 : Nat) < 65536
    ∧ (submitState 0).env.byteChannel.length < 1 ∧ (submitState 0).seq = Stage.idle := by decide

/-- A busy core, at STATE `c`, that holds a SUBMIT of one byte, with the given script. -/
def holding (c : BitVec 4) (l : List ScriptEvent) : State :=
  let s := submitState 0
  { s with seq := c, env := { s.env with held := some ⟨1, [0xAB#8]⟩, script := l } }

theorem witness_BusyCoreHoldsSubmit :
    (1 ≤ (zeros 0x1#4 0 0).seq.toNat ∧ (zeros 0x1#4 0 0).seq.toNat ≤ 8)
    ∧ (1 ≤ (zeros 0x8#4 0 0).seq.toNat ∧ (zeros 0x8#4 0 0).seq.toNat ≤ 8)
    ∧ (∀ c, c = 0x0#4 ∨ c = 0x9#4 ∨ c = 0xB#4 → (holding c []).env.held = some ⟨1, [0xAB#8]⟩
      ∧ (holding c []).busy = false ∧ (holding c []).seq.toNat < 12
      ∧ ∀ rest, (holding c []).env.script ≠ .resetInput :: rest)
    ∧ (let s := holding 0x1#4 []; s.env.held = some ⟨1, [0xAB#8]⟩ ∧ s.busy = true ∧ s.env.script = [])
    ∧ (let s := holding 0x8#4 [.coreTurn]
       s.env.held = some ⟨1, [0xAB#8]⟩ ∧ s.busy = true ∧ s.env.script = .coreTurn :: [])
    ∧ (let s := holding 0x8#4 [.command 0x24000000#32 []]
       s.env.held = some ⟨1, [0xAB#8]⟩ ∧ s.busy = true ∧ s.env.script = .command 0x24000000#32 [] :: []) := by
  refine ⟨by decide, by decide, ?_, ⟨rfl, rfl, rfl⟩, ⟨rfl, rfl, rfl⟩, rfl, rfl, rfl⟩
  rintro c (rfl | rfl | rfl) <;> exact ⟨rfl, rfl, by decide, fun _ h => by cases h⟩
theorem witness_IllegalHostWordIsRefused :
    let s := scripted State.reset [.command 0x00000000#32 [1#8]]
    s.seq.toNat < 12 ∧ s.env.held = none ∧ s.env.script = .command 0x00000000#32 [1#8] :: []
    ∧ decodeHost 0x00000000#32 = .error .badOp := ⟨by decide, rfl, rfl, rfl⟩
theorem witness_RefusedCommandChangesNoCoreState :
    ∃ t, exec (.cfgw .status 0) State.reset = .next t ∧ t.env.refusals ≠ State.reset.env.refusals :=
  ⟨_, rfl, by decide⟩
theorem witness_ResetOverridesEverything :
    (holding 0x8#4 [.resetInput, .coreTurn]).env.script = .resetInput :: [.coreTurn] := rfl

/-- The first record of a job of two is about to be decoded, with everything before it decoded as the payload has it. -/
def hopState : State :=
  let s := withJob (zeros 0x7#4 560 134) 0 8 2 1
  let m : Memory := []
  { s with hdr := { HdrRegs.reset with
      report := ReportHdr.readFrom m 0, eth := EthHdr.readFrom m 128, ipv4 := Ipv4Hdr.readFrom m 240,
      udp := UdpHdr.readFrom m 400, shim := ShimHdr.readFrom m 464, intmeta := IntmetaHdr.readFrom m 496,
      vReport := true, vEth := true, vIpv4 := true, vUdp := true, vShim := true, vIntmeta := true } }

/-- A state in the middle of a job meets the invariant, and the machine steps from it. -/
theorem witness_StepKeepsInvariant : Machine.Inv hopState ∧ ∃ t, step hopState = .next t := by
  refine ⟨⟨⟨?_, ?_, ?_, ?_, ?_⟩, ⟨?_, ?_, ?_, ?_⟩, ⟨?_, ?_, ?_, ?_, ?_, ?_, ?_⟩, ⟨?_, ?_, ?_, ?_⟩, ⟨?_, ?_⟩, ?_, ?_⟩, ?_⟩
  all_goals first | decide | exact ⟨_, rfl⟩
theorem witness_InvariantStatesNeverStop : Machine.Inv hopState := witness_StepKeepsInvariant.1
theorem witness_StepKeepsHeadersEqualToPayload :
    Machine.Inv hopState ∧ HeadersMatchPayload hopState ∧ ∃ t, step hopState = .next t := by
  refine ⟨witness_StepKeepsInvariant.1, ⟨fun _ => rfl, fun _ => rfl, fun _ => rfl, fun _ => rfl, fun _ => rfl, fun _ => rfl,
    ?_⟩, witness_StepKeepsInvariant.2⟩
  intro h; exact absurd h (by decide)
theorem witness_RecordIsTracedBeforeItIsRouted : RecordTraced hopState ∧ ∃ t, step hopState = .next t :=
  ⟨fun h => absurd h (by decide), witness_StepKeepsInvariant.2⟩
theorem witness_LogsOnlyGrow : ∃ t, step hopState = .next t := witness_StepKeepsInvariant.2
theorem witness_CoreTransitionsAreTheTable : (∃ t, coreStep hopState = .next t)
    ∧ Machine.Inv hopState ∧ ∃ t, step hopState = .next t := ⟨⟨_, rfl⟩, witness_StepKeepsInvariant⟩
-- R91's SUBMIT row from IDLE, and its reset row
theorem test_submit_and_reset_rows :
    after (step (scripted (submitState 0) [.command 0x30000000#32 []])) (fun t => t.seq) = some 0x1#4
    ∧ after (step (scripted (zeros 0xB#4 0 0) [.resetInput])) (fun t => t.seq) = some 0x0#4 := by decide
theorem witness_RunningJobIgnoresConfiguration : ∃ t, coreStep hopState = .next t := ⟨_, rfl⟩
theorem witness_TracingNeverSteers : (∃ t, coreStep hopState = .next t) ∧ (0#1 : BitVec 1) ≠ 1#1 := ⟨⟨_, rfl⟩, by decide⟩
theorem witness_EveryOperationKeepsItsFrame : (∃ t, exec .decHop hopState = .next t)
    ∧ (∃ t, exec .route (routeState 2 .fail) = .next t) ∧ (∃ t, exec (.cfgw .diagTrace 1) hopState = .next t)
    ∧ (∃ t, exec (.rdreg .status) hopState = .next t) ∧ (∃ t, exec (.rdhdr .hop) hopState = .next t)
    ∧ (∃ t, exec (.submit 0) (submitState 0) = .next t) ∧ (∃ t, exec (.submit 0) hopState = .next t) :=
  ⟨⟨_, rfl⟩, ⟨_, rfl⟩, ⟨_, rfl⟩, ⟨_, rfl⟩, ⟨_, rfl⟩, ⟨_, rfl⟩, ⟨_, rfl⟩⟩
theorem witness_FatalIsLeftOnlyByReset :
    (let s := scripted (zeros 0xB#4 1200 190) [.command 0x30000000#32 []]
     s.seq = Stage.fatal ∧ s.env.held = none ∧ s.env.script = .command 0x30000000#32 [] :: []
       ∧ decodeHost 0x30000000#32 = .ok (.submit 0) ∧ s.noDirectRequest = true
       ∧ (∀ rest, s.env.script ≠ .resetInput :: rest) ∧ ∃ t, step s = .next t)
    ∧ (let s := holding 0xB#4 []
       s.seq = Stage.fatal ∧ s.env.held = some ⟨1, [0xAB#8]⟩ ∧ ∀ rest, s.env.script ≠ .resetInput :: rest)
    ∧ (let s := scripted (zeros 0xB#4 1200 190) [.resetInput]
       s.seq = Stage.fatal ∧ s.env.script = .resetInput :: []) := by
  refine ⟨⟨rfl, rfl, rfl, rfl, rfl, ?_, _, rfl⟩, ⟨rfl, rfl, ?_⟩, rfl, rfl⟩
  all_goals
    intro rest h
    cases h

/-- What comes from outside in a whole job of one host: configure, submit one record's worth of payload, let the core run. -/
def hostEnv : Env :=
  { Env.powerUp with
    script := [.command 0x10000000#32 [], .command 0x11000008#32 [], .command 0x12000000#32 [], .command 0x13000001#32 [],
      .command 0x30000000#32 []] }

theorem witness_RunsFromResetKeepR26 : ({ State.reset with env := hostEnv } : State).noDirectRequest = true
    ∧ ∃ t, Sys2Proof.core.run 6 ({ State.reset with env := hostEnv } : State) = .next t ∧ t.seq = Stage.underrun :=
  ⟨rfl, _, rfl, rfl⟩

/-- A job as SUBMIT leaves it: `n` zero bytes, FPH 8, `nt` transits. -/
def jobStart (n : Nat) (nt : BitVec 8) : State := withJob (zeros 0x1#4 0 n) 0 8 nt 0

theorem witness_JobEndsWithinItsStepBound :
    (let s := jobStart 0 255; s.atJobStart = true ∧ s.env.script = [] ∧ s.env.held = none)
    ∧ ∃ t, Sys2Proof.core.run 8 (jobStart 102 1) = .next t ∧ t.seq = Stage.done := ⟨⟨rfl, rfl, rfl⟩, _, rfl, rfl⟩
theorem witness_JobStepsComputeTheJobFunction :
    let s := jobStart 102 1
    s.atJobStart = true ∧ s.env.script = [] ∧ s.env.held = none ∧ 6 + 2 * s.job.nt.toNat ≤ 8 := by decide
theorem witness_JobDependsOnlyOnTheBytesItDecodes :
    let j : JobInput := ⟨[(0, 1#8)], 106, 0, 9, 1, 0⟩
    let m : Memory := [(0, 1#8), (102, 7#8)]
    8 ≤ j.fph ∧ (∀ a, a < 70 → a < j.len → m.read a = j.buf.read a)
    ∧ (∀ i a, i < j.nt → a < 32 → 70 + 4 * j.fph * i + a < j.len →
      m.read (70 + 4 * j.fph * i + a) = j.buf.read (70 + 4 * j.fph * i + a))
    ∧ ((200 : Nat) = j.len ∨ (70 + 4 * j.fph * j.nt ≤ j.len ∧ 70 + 4 * j.fph * j.nt ≤ 200)) := by
  refine ⟨by decide, ?_, ?_, by decide⟩
  · intro a h _
    simp only [Memory.read, Memory.unlisted]
    split
    · rfl
    · rw [if_neg (by omega)]
  · intro i a hi ha _
    have : i = 0 := Nat.lt_one_iff.mp hi
    subst this
    simp only [Memory.read, Memory.unlisted, Nat.mul_zero, Nat.add_zero]
    rw [if_neg (by omega), if_neg (by omega), if_neg (by omega)]

-- The run form: the one record of a job has stride 32, so byte 102 is past the job
theorem witness_JobDependsOnlyOnTheBytesItDecodes_run :
    let s := jobStart 103 1
    let m : Memory := [(102, 7#8)]
    s.atJobStart = true ∧ s.env.script = [] ∧ s.env.held = none
    ∧ (∀ a, a < 70 → a < s.len.toNat → m.read a = s.buf.read a)
    ∧ (∀ i a, i < s.job.nt.toNat → a < 32 → 70 + 4 * s.job.fph.toNat * i + a < s.len.toNat →
      m.read (70 + 4 * s.job.fph.toNat * i + a) = s.buf.read (70 + 4 * s.job.fph.toNat * i + a))
    ∧ (70 + 4 * s.job.fph.toNat * s.job.nt.toNat ≤ s.len.toNat
      ∧ 70 + 4 * s.job.fph.toNat * s.job.nt.toNat ≤ (102#16).toNat)
    ∧ 6 + 2 * s.job.nt.toNat ≤ 8 ∧ ∃ t, Sys2Proof.core.run 8 s = .next t := by
  refine ⟨rfl, rfl, rfl, ?_, ?_, by decide, by decide, _, rfl⟩
  · intro a h _
    show Memory.read [(102, 7#8)] a = Memory.read [] a
    simp only [Memory.read, Memory.unlisted]
    rw [if_neg (by omega)]
  · intro i a hi ha _
    have hi : i = 0 := Nat.lt_one_iff.mp hi
    subst hi
    show Memory.read [(102, 7#8)] (70 + a) = Memory.read [] (70 + a)
    simp only [Memory.read, Memory.unlisted]
    rw [if_neg (by omega)]

-- Each clause at its boundary lengths (`60_exceptions.md` R103), by one run to the end
theorem witness_UnderrunThresholdsByLength :
    (let s := jobStart 15 0; s.atJobStart = true ∧ s.env.script = [] ∧ s.env.held = none
      ∧ (∃ t, Sys2Proof.core.run (6 + 2 * s.job.nt.toNat) s = .next t) ∧ s.len.toNat < 16)
    ∧ (∃ t, Sys2Proof.core.run 6 (jobStart 16 0) = .next t) ∧ (∃ t, Sys2Proof.core.run 6 (jobStart 29 0) = .next t)
    ∧ (∃ t, Sys2Proof.core.run 6 (jobStart 49 0) = .next t) ∧ (∃ t, Sys2Proof.core.run 6 (jobStart 57 0) = .next t)
    ∧ (∃ t, Sys2Proof.core.run 6 (jobStart 61 0) = .next t) ∧ (∃ t, Sys2Proof.core.run 6 (jobStart 69 0) = .next t)
    ∧ (∃ t, Sys2Proof.core.run 10 (jobStart 133 2) = .next t ∧ t.seq ≠ Stage.fatal
      ∧ 70 + 4 * 8 * 1 ≤ (jobStart 133 2).len.toNat ∧ (jobStart 133 2).len.toNat < 70 + 4 * 8 * 2)
    ∧ (∃ t, Sys2Proof.core.run 8 (jobStart 102 1) = .next t ∧ 70 + 4 * 8 * 1 ≤ (jobStart 102 1).len.toNat) :=
  ⟨⟨rfl, rfl, rfl, ⟨_, rfl⟩, by decide⟩, ⟨_, rfl⟩, ⟨_, rfl⟩, ⟨_, rfl⟩, ⟨_, rfl⟩, ⟨_, rfl⟩, ⟨_, rfl⟩,
    ⟨_, rfl, by decide, by decide, by decide⟩, ⟨_, rfl, by decide⟩⟩

/-- A SUBMIT of one byte comes while a record is about to be decoded. -/
def hopStateSubmit : State :=
  { configured hopState 0 8 0 0 with
    env := { hopState.env with script := [.command 0x30000001#32 [0xAB#8]] } }

theorem witness_HeldSubmitStartsTheNextJob :
    Machine.Inv hopStateSubmit ∧ hopStateSubmit.busy = true ∧ hopStateSubmit.env.held = none
    ∧ hopStateSubmit.env.script = [.command 0x30000001#32 [0xAB#8]] ∧ decodeHost 0x30000001#32 = .ok (.submit 1)
    ∧ 1 ≤ [0xAB#8].length ∧ hopStateSubmit.cfgReady = true ∧ 8 ≤ hopStateSubmit.cfg.fph.toNat := by
  refine ⟨⟨⟨?_, ?_, ?_, ?_, ?_⟩, ⟨?_, ?_, ?_, ?_⟩, ⟨?_, ?_, ?_, ?_, ?_, ?_, ?_⟩, ⟨?_, ?_, ?_, ?_⟩, ⟨?_, ?_⟩, ?_, ?_⟩, rfl, rfl,
    rfl, rfl, ?_, rfl, ?_⟩
  all_goals decide

theorem witness_ConfigWritesAllFourRegisters :
    ((65535 : Nat) < 65536) ∧ ∃ script, AsmLine.expand (.config 1 255 255 1) = some script
      ∧ (scripted State.reset script).env.script = script ∧ (scripted State.reset script).env.held = none
      ∧ (scripted State.reset script).seq.toNat < 12 ∧ (1 : Nat) < 2 ∧ (255 : Nat) < 256 :=
  ⟨by decide, _, rfl, rfl, rfl, by decide, by decide, by decide⟩

end Sys2Proof.Tests.Slice0
end

section
/-! PROOFS. The state (`10_state.md`): what reset and the status word hold, the one canonical form of BUF, the invariant of
R26 kept by every step, logs that only grow, and a running job that does not see the configuration registers. -/

namespace Sys2Proof.Machine

/-! ### Reset and STATUS (`10_state.md` R23, R27) -/

/-- Settles O38: every stated value is the one `State.reset` is written with. -/
theorem resetStateHoldsTheStatedValues : Obligations.ResetStateHoldsTheStatedValues := by
  unfold Obligations.ResetStateHoldsTheStatedValues
  decide

/-- A field above the last part of a word is a field of the rest. -/
theorem extractLsb'_append_above {v w len : Nat} (x : BitVec v) (y : BitVec w) (k : Nat) :
    (x ++ y).extractLsb' (w + k) len = x.extractLsb' k len := by
  rw [BitVec.extractLsb'_append_eq_of_le (Nat.le_add_right w k), Nat.add_sub_cancel_left]

/-- A bit above the last part of a word is a bit of the rest. -/
theorem getLsbD_append_above {v w : Nat} (x : BitVec v) (y : BitVec w) (k : Nat) :
    (x ++ y).getLsbD (w + k) = x.getLsbD k := by
  rw [BitVec.getLsbD_append, if_neg (by omega), Nat.add_sub_cancel_left]

/-- Settles O30: each field is reached by passing the fields below it, STATE first. -/
theorem statusWordShowsItsFields : Obligations.StatusWordShowsItsFields := by
  intro s
  refine ⟨BitVec.extractLsb'_append_eq_right, ?_, ?_, ?_, ?_, ?_⟩
  · exact (extractLsb'_append_above _ s.seq 0).trans BitVec.extractLsb'_append_eq_right
  · exact (extractLsb'_append_above _ s.seq 2).trans <| (extractLsb'_append_above _ s.result 0).trans
      BitVec.extractLsb'_append_eq_right
  · exact (extractLsb'_append_above _ s.seq 6).trans <| (extractLsb'_append_above _ s.result 4).trans <|
      (extractLsb'_append_above _ s.errStage 0).trans BitVec.extractLsb'_append_eq_right
  · have hready : (0#13 ++ BitVec.ofBool s.cfgReady).getLsbD 0 = s.cfgReady := by
      rw [BitVec.getLsbD_append]; simp
    exact (getLsbD_append_above _ s.seq 14).trans <| (getLsbD_append_above _ s.result 12).trans <|
      (getLsbD_append_above _ s.errStage 8).trans <| (getLsbD_append_above _ s.hopIdx 0).trans hready
  · exact (extractLsb'_append_above _ s.seq 15).trans <| (extractLsb'_append_above _ s.result 13).trans <|
      (extractLsb'_append_above _ s.errStage 9).trans <| (extractLsb'_append_above _ s.hopIdx 1).trans <|
      (extractLsb'_append_above _ (BitVec.ofBool s.cfgReady) 0).trans BitVec.extractLsb'_eq_self

/-! ### BUF: two canonical buffers that read alike are the same list (log 6) -/

theorem Memory.wfFrom_cons {a k : Nat} {b : Byte} {m : Memory} :
    Memory.wfFrom a ((k, b) :: m) = true ↔ a ≤ k ∧ b ≠ Memory.unlisted ∧ Memory.wfFrom (k + 1) m = true := by
  simp [Memory.wfFrom, and_assoc]

theorem Memory.read_cons_self (k : Nat) (b : Byte) (m : Memory) : Memory.read ((k, b) :: m) k = b := if_pos rfl

theorem Memory.read_cons_ne {k x : Nat} (h : k ≠ x) (b : Byte) (m : Memory) :
    Memory.read ((k, b) :: m) x = m.read x := if_neg h

/-- A canonical buffer holds nothing below the address it starts from. -/
theorem Memory.read_of_lt {m : Memory} : ∀ {a x : Nat}, Memory.wfFrom a m = true → x < a → m.read x = Memory.unlisted := by
  induction m with
  | nil => intro a x _ _; rfl
  | cons c m ih =>
    obtain ⟨k, b⟩ := c
    intro a x h hx
    obtain ⟨hk, -, hm⟩ := Memory.wfFrom_cons.mp h
    rw [Memory.read_cons_ne (by omega), ih hm (by omega)]

/-- A canonical buffer that reads the first cell of another one starts at that cell's address or before. -/
theorem Memory.wfFrom_head_le {a a' k : Nat} {b : Byte} {m m' : Memory} (h : Memory.wfFrom a ((k, b) :: m) = true)
    (hm' : Memory.wfFrom a' m' = true) (hr : m'.read k = b) : a' ≤ k := by
  obtain ⟨-, hb, -⟩ := Memory.wfFrom_cons.mp h
  by_contra hk
  exact hb (hr.symm.trans (Memory.read_of_lt hm' (by omega)))

/-- The canonical form is one: equal reads mean equal lists. -/
theorem Memory.eq_of_read_eq {m : Memory} : ∀ {m' : Memory} {a a' : Nat}, Memory.wfFrom a m = true →
    Memory.wfFrom a' m' = true → (∀ x, m.read x = m'.read x) → m = m' := by
  induction m with
  | nil =>
    rintro (_ | ⟨⟨k, b⟩, m'⟩) a a' - hm' hr
    · rfl
    · obtain ⟨-, hb, -⟩ := Memory.wfFrom_cons.mp hm'
      exact absurd ((hr k).trans (Memory.read_cons_self k b m')).symm hb
  | cons c m ih =>
    obtain ⟨k, b⟩ := c
    rintro (_ | ⟨⟨k', b'⟩, m'⟩) a a' hm hm' hr
    · obtain ⟨-, hb, -⟩ := Memory.wfFrom_cons.mp hm
      exact absurd ((Memory.read_cons_self k b m).symm.trans (hr k)) hb
    · obtain ⟨-, hb, ht⟩ := Memory.wfFrom_cons.mp hm
      obtain ⟨-, hb', ht'⟩ := Memory.wfFrom_cons.mp hm'
      have hk : k = k' := by
        have hle : k' ≤ k := Memory.wfFrom_head_le hm
          (Memory.wfFrom_cons.mpr ⟨le_refl k', hb', ht'⟩) ((hr k).symm.trans (Memory.read_cons_self k b m))
        have hge : k ≤ k' := Memory.wfFrom_head_le hm'
          (Memory.wfFrom_cons.mpr ⟨le_refl k, hb, ht⟩) ((hr k').trans (Memory.read_cons_self k' b' m'))
        omega
      subst hk
      have hbb : b = b' := by simpa only [Memory.read_cons_self] using hr k
      have hmm : m = m' := ih ht ht' fun x => by
        by_cases hx : k = x
        · subst hx
          rw [Memory.read_of_lt ht (Nat.lt_succ_self k), Memory.read_of_lt ht' (Nat.lt_succ_self k)]
        · simpa only [Memory.read_cons_ne hx] using hr x
      rw [hbb, hmm]

/-- Settles O16: loading makes the canonical form, and the canonical form is one. -/
theorem loadedBufferIsCanonicalAndReadsBack : Obligations.LoadedBufferIsCanonicalAndReadsBack := by
  refine ⟨fun bytes => ⟨Memory.load_wf bytes, Memory.load_below bytes, fun k hk => ?_⟩,
    fun m m' hm hm' hr => Memory.eq_of_read_eq hm hm' hr⟩
  rw [Memory.read_load, List.getD_eq_getElem _ _ hk]

end Sys2Proof.Machine
end

section
/-! PROOFS. What each operation does to the parts of the state that the invariant reads. -/

namespace Sys2Proof.Machine

/-! ### STATE and the stage a job has reached -/

/-- A STATE up to DONE is no abort. -/
theorem ne_abort {c : BitVec 4} (h : c.toNat ≤ 9) : c ≠ Stage.underrun ∧ c ≠ Stage.fatal := by
  constructor <;> rintro rfl <;> exact absurd h (by decide)

theorem ne_idle {c : BitVec 4} (h : 1 ≤ c.toNat) : c ≠ Stage.idle := by
  rintro rfl; exact absurd h (by decide)

theorem State.reached_eq_seq {s : State} (h : s.seq.toNat ≤ 9) : s.reached = s.seq.toNat :=
  if_neg (not_or.mpr (ne_abort h))

theorem State.reached_abort {s : State} (h : s.seq = Stage.underrun ∨ s.seq = Stage.fatal) :
    s.reached = s.errStage.toNat := if_pos h

theorem resultOf_running {c : BitVec 4} (h : c.toNat ≤ 8) : resultOf c = ResultCode.none := by
  obtain ⟨hu, hf⟩ := ne_abort (c := c) (by omega)
  have hd : c ≠ Stage.done := by rintro rfl; exact absurd h (by decide)
  simp only [resultOf, if_neg hd, if_neg hu, if_neg hf]

/-! ### The starts of the stages (`10_state.md` R26) -/

theorem State.stageStart_byteAligned (s : State) (n : Nat) : s.stageStart n % 8 = 0 := by
  unfold State.stageStart
  simp only [Nat.mul_assoc]
  split <;> omega

/-- A stage's start and its span give the next stage's start; no record is counted before the first. -/
theorem State.stageStart_add_span (s : State) {n : Nat} (h1 : 1 ≤ n) (h7 : n ≤ 7) (h0 : n ≤ 6 → s.hopIdx.toNat = 0) :
    s.stageStart n + s.stageSpan n = s.stageStart (n + 1) := by
  interval_cases n <;> simp only [State.stageStart, State.stageSpan]
  · simp [h0]
  · ring

/-! ### The script holds no direct request -/

theorem State.noDirectRequest_of_suffix {s t : State} (h : s.noDirectRequest = true)
    (hs : t.env.script <:+ s.env.script) : t.noDirectRequest = true := by
  simp only [State.noDirectRequest, List.all_eq_true] at h ⊢
  exact fun e he => h e (hs.subset he)

theorem State.noDirectRequest_head {s : State} (h : s.noDirectRequest = true) (q : BitVec 16)
    (rest : List ScriptEvent) : s.env.script ≠ .cursorRequest q :: rest := by
  intro hs
  simp [State.noDirectRequest, hs] at h

/-! ### The decoders, as far as the invariant reads the state -/

/-- `t` goes on with the job of `s`: the payload, the latched configuration, ERR_STAGE and the script are the same. -/
structure SameJob (s t : State) : Prop where
  buf : t.buf = s.buf
  len : t.len = s.len
  job : t.job = s.job
  errStage : t.errStage = s.errStage
  script : t.env.script = s.env.script

theorem sameJob_iff {s t : State} : SameJob s t ↔ t.buf = s.buf ∧ t.len = s.len ∧ t.job = s.job
    ∧ t.errStage = s.errStage ∧ t.env.script = s.env.script :=
  ⟨fun ⟨hb, hl, hj, he, hs⟩ => ⟨hb, hl, hj, he, hs⟩, fun ⟨hb, hl, hj, he, hs⟩ => ⟨hb, hl, hj, he, hs⟩⟩

/-- STATE of `s` is a decoding stage and `t` is `s` after that stage's decoder has taken its span. -/
structure Decoded (s t : State) : Prop extends SameJob s t where
  first : 1 ≤ s.seq.toNat
  last : s.seq.toNat ≤ 7
  hopIdx : t.hopIdx = s.hopIdx
  pos : t.pos = BitVec.ofNat 19 (s.pos.toNat + s.stageSpan s.seq.toNat)
  seq : t.seq = if s.seq = Stage.intmeta ∧ s.job.nt = 0#8 then Stage.done else s.seq + 1
  result : t.result = if s.seq = Stage.intmeta ∧ s.job.nt = 0#8 then ResultCode.done else s.result
  vReport : t.hdr.vReport = (s.hdr.vReport || decide (s.seq.toNat = 1))
  vEth : t.hdr.vEth = (s.hdr.vEth || decide (s.seq.toNat = 2))
  vIpv4 : t.hdr.vIpv4 = (s.hdr.vIpv4 || decide (s.seq.toNat = 3))
  vUdp : t.hdr.vUdp = (s.hdr.vUdp || decide (s.seq.toNat = 4))
  vShim : t.hdr.vShim = (s.hdr.vShim || decide (s.seq.toNat = 5))
  vIntmeta : t.hdr.vIntmeta = (s.hdr.vIntmeta || decide (s.seq.toNat = 6))
  vHop : t.hdr.vHop = (s.hdr.vHop || decide (s.seq.toNat = 7))

theorem decoded_afterReport {s : State} (h : s.seq = Stage.report) : Decoded s s.afterReport := by
  constructor <;> simp [sameJob_iff, State.afterReport, State.stageSpan, h]

theorem decoded_afterEth {s : State} (h : s.seq = Stage.eth) : Decoded s s.afterEth := by
  constructor <;> simp [sameJob_iff, State.afterEth, State.stageSpan, h]

theorem decoded_afterIpv4 {s : State} (h : s.seq = Stage.ipv4) : Decoded s s.afterIpv4 := by
  constructor <;> simp [sameJob_iff, State.afterIpv4, State.stageSpan, h]

theorem decoded_afterUdp {s : State} (h : s.seq = Stage.udp) : Decoded s s.afterUdp := by
  constructor <;> simp [sameJob_iff, State.afterUdp, State.stageSpan, h]

theorem decoded_afterShim {s : State} (h : s.seq = Stage.shim) : Decoded s s.afterShim := by
  constructor <;> simp [sameJob_iff, State.afterShim, State.stageSpan, h]

theorem decoded_afterIntmeta {s : State} (h : s.seq = Stage.intmeta) : Decoded s s.afterIntmeta := by
  unfold State.afterIntmeta
  split
  · next hn => constructor <;> simp [sameJob_iff, State.withIntmeta, State.stageSpan, h, hn]
  · next hn => constructor <;> simp [sameJob_iff, State.withIntmeta, State.stageSpan, h, hn]

theorem decoded_afterHop {s : State} (h : s.seq = Stage.hop) : Decoded s s.afterHop := by
  constructor <;> simp [sameJob_iff, State.afterHop, State.stageSpan, h]

/-- The core's step by the kind of STATE: none where a job has ended or not begun, a decoder, which takes its stage's
span or underruns there, ROUTE, or a fault in a reserved code. -/
theorem coreStep_kinds (s : State) (hf : s.seq ≠ Stage.idle → Config.fphMin ≤ s.job.fph.toNat) :
    coreStep s = .next s
    ∨ (∃ t, Decoded s t ∧ coreStep s = .next
        (if s.pos.toNat + s.stageSpan s.seq.toNat ≤ s.streamLen then t else s.raiseUnderrun s.seq))
    ∨ (s.seq = Stage.route ∧ coreStep s = execRoute s)
    ∨ coreStep s = .fault .reservedState := by
  rcases coreStep_cases s with ⟨-, e⟩ | ⟨hc, e⟩ | ⟨hc, e⟩ | ⟨hc, e⟩ | ⟨hc, e⟩ | ⟨hc, e⟩ | ⟨hc, e⟩ | ⟨hc, e⟩
    | ⟨hc, e⟩ | ⟨-, e⟩
  · exact .inl e
  · exact .inr (.inl ⟨_, decoded_afterReport hc, by rw [e, execDecReport_eq, hc]; rfl⟩)
  · exact .inr (.inl ⟨_, decoded_afterEth hc, by rw [e, execDecEth_eq, hc]; rfl⟩)
  · exact .inr (.inl ⟨_, decoded_afterIpv4 hc, by rw [e, execDecIpv4_eq, hc]; rfl⟩)
  · exact .inr (.inl ⟨_, decoded_afterUdp hc, by rw [e, execDecUdp_eq, hc]; rfl⟩)
  · exact .inr (.inl ⟨_, decoded_afterShim hc, by rw [e, execDecShim_eq, hc]; rfl⟩)
  · exact .inr (.inl ⟨_, decoded_afterIntmeta hc, by rw [e, execDecIntmeta_eq, hc]; rfl⟩)
  · have hf8 : Config.fphMin ≤ s.job.fph.toNat := hf (by rw [hc]; decide)
    exact .inr (.inl ⟨_, decoded_afterHop hc, by rw [e, execDecHop_eq s hf8, hc]; rfl⟩)
  · exact .inr (.inr (.inl ⟨hc, e⟩))
  · exact .inr (.inr (.inr e))

/-- STATE and RESULT after a decoder: the next stage, or the end of a job without records. -/
theorem Decoded.next_or_done {s t : State} (hd : Decoded s t) :
    (t.seq.toNat = s.seq.toNat + 1 ∧ t.result = s.result ∧ (s.seq.toNat = 6 → 0 < s.job.nt.toNat))
    ∨ (t.seq.toNat = 9 ∧ t.result = ResultCode.done ∧ s.seq.toNat = 6 ∧ s.job.nt.toNat = 0) := by
  have h7 := hd.last
  by_cases hl : s.seq = Stage.intmeta ∧ s.job.nt = 0#8
  · refine .inr ⟨?_, ?_, congrArg BitVec.toNat hl.1, congrArg BitVec.toNat hl.2⟩
    · rw [hd.seq, if_pos hl]; rfl
    · rw [hd.result, if_pos hl]
  · refine .inl ⟨?_, ?_, fun h6 => ?_⟩
    · rw [hd.seq, if_neg hl, BitVec.toNat_add]; exact Nat.mod_eq_of_lt (by simp; omega)
    · rw [hd.result, if_neg hl]
    · exact Nat.pos_of_ne_zero fun h0 => hl ⟨BitVec.eq_of_toNat_eq h6, BitVec.eq_of_toNat_eq h0⟩

/-! ### The commands that only read or write a register -/

/-- CFGW, RDREG and RDHDR change the configuration and the environment only, and leave the script. -/
theorem exec_registerCommand {i : Instr} {s t : State}
    (hi : (∃ r x, i = .cfgw r x) ∨ (∃ r, i = .rdreg r) ∨ (∃ r, i = .rdhdr r)) (h : exec i s = .next t) :
    ∃ c e, t = { s with cfg := c, env := e } ∧ e.script = s.env.script := by
  rcases hi with ⟨r, x, rfl⟩ | ⟨r, rfl⟩ | ⟨r, rfl⟩
  · simp only [exec, execCfgw] at h
    split at h
    · cases h; exact ⟨s.cfg, _, rfl, rfl⟩
    · next c _ => cases h; exact ⟨c, s.env, rfl, rfl⟩
  · simp only [exec, execRdreg] at h
    split at h <;> cases h <;> exact ⟨s.cfg, _, rfl, rfl⟩
  · simp only [exec, execRdhdr] at h
    split at h <;> cases h <;> exact ⟨s.cfg, _, rfl, rfl⟩

end Sys2Proof.Machine
end

section
/-! PROOFS. The invariant of `10_state.md` R26: it holds at reset, and every agent's action keeps it. -/

namespace Sys2Proof.Machine

/-! ### Parts of the invariant that carry over -/

/-- The invariant reads nothing of the configuration and the logs, and of the environment only the script. -/
theorem Inv.withOutside {s : State} (h : Inv s) (c : CfgRegs) (sl : List SinkEvent) (tl : List TraceEvent) (e : Env)
    (hd : ({ s with env := e } : State).noDirectRequest = true) :
    Inv { s with cfg := c, sinkLog := sl, traceLog := tl, env := e } := by
  obtain ⟨⟨legal, result, noError, underrun, fatal⟩, ⟨inBuffer, stage, byteAligned, short⟩,
    ⟨report, eth, ipv4, udp, shim, intmeta, hop⟩, ⟨le, headers, record, done⟩, ⟨canonical, below⟩, fphMin, -⟩ := h
  exact ⟨⟨legal, result, noError, underrun, fatal⟩, ⟨inBuffer, stage, byteAligned, short⟩,
    ⟨report, eth, ipv4, udp, shim, intmeta, hop⟩, ⟨le, headers, record, done⟩, ⟨canonical, below⟩, fphMin, hd⟩

theorem Inv.withEnv {s : State} (h : Inv s) (e : Env) (he : e.script <:+ s.env.script) : Inv { s with env := e } :=
  h.withOutside s.cfg s.sinkLog s.traceLog e (State.noDirectRequest_of_suffix h.noDirect he)

theorem Inv.emitSink {s : State} (h : Inv s) (k : SinkId) (v : BitVec 32) : Inv (s.emitSink k v) :=
  h.withOutside s.cfg (s.emitSink k v).sinkLog s.traceLog (s.emitSink k v).env
    (State.noDirectRequest_of_suffix h.noDirect (by simp))

theorem ValidBitsMatch.congr {s t : State} (h : ValidBitsMatch s) (hh : t.hdr = s.hdr) (hi : t.hopIdx = s.hopIdx)
    (hr : t.reached = s.reached) : ValidBitsMatch t := by
  constructor <;> rw [hh, hr]
  · exact h.report
  · exact h.eth
  · exact h.ipv4
  · exact h.udp
  · exact h.shim
  · exact h.intmeta
  · rw [hi]; exact h.hop

theorem HopIdxMatches.congr {s t : State} (h : HopIdxMatches s) (hi : t.hopIdx = s.hopIdx) (hj : t.job = s.job)
    (hr : t.reached = s.reached) : HopIdxMatches t := by
  constructor <;> rw [hi]
  · rw [hj]; exact h.le
  · rw [hr]; exact h.headers
  · rw [hr, hj]; exact h.record
  · rw [hr, hj]; exact h.done

/-! ### Reset and SUBMIT -/

/-- Settles O40: each part of the invariant is a closed fact about the reset state. -/
theorem resetSatisfiesInvariant : Obligations.ResetSatisfiesInvariant := by
  refine ⟨⟨?_, ?_, ?_, ?_, ?_⟩, ⟨?_, ?_, ?_, ?_⟩, ⟨?_, ?_, ?_, ?_, ?_, ?_, ?_⟩, ⟨?_, ?_, ?_, ?_⟩, ⟨?_, ?_⟩, ?_, ?_⟩
  all_goals decide

theorem Inv.resetCore {s : State} (hd : s.noDirectRequest = true) : Inv s.resetCore :=
  Inv.withOutside resetSatisfiesInvariant CfgRegs.reset s.sinkLog s.traceLog
    { s.env with held := none, byteChannel := [] } hd

/-- A SUBMIT that is taken starts a job at the first stage. -/
theorem Inv.startJob {s : State} (hd : s.noDirectRequest = true) {n : Nat} {bytes : List Byte}
    (hf : Config.fphMin ≤ s.cfg.fph.toNat) (hn : n ≤ Config.bufLenMax) (hb : bytes.length = n) :
    Inv (s.startJob n bytes) := by
  have hr : (s.startJob n bytes).reached = 1 := State.reached_eq_seq (by simp)
  have hl : (BitVec.ofNat 16 n).toNat = n := Nat.mod_eq_of_lt (Nat.lt_succ_of_le hn)
  have hbelow : (Memory.load bytes).below (BitVec.ofNat 16 n).toNat = true := by
    rw [hl, ← hb]; exact Memory.load_below bytes
  refine ⟨⟨?_, rfl, fun _ _ => rfl, ?_, ?_⟩, ⟨Nat.zero_le _, ?_, rfl, ?_⟩, ?_, ⟨Nat.zero_le _, fun _ => rfl, ?_, ?_⟩,
    ⟨Memory.load_wf bytes, hbelow⟩, fun _ => hf, hd⟩
  · simp
  · simp
  · simp
  · rw [hr]; rfl
  · simp
  · constructor <;> rw [hr] <;> rfl
  · omega
  · omega

/-- A SUBMIT is held or refused, which changes the environment only, or starts a job. -/
theorem execSubmit_keeps_inv {s t : State} {n : Nat} (h : Inv s) (ht : execSubmit n s = .next t) : Inv t := by
  rcases execSubmit_cases ht with ⟨-, rfl⟩ | ⟨-, r, rfl⟩ | ⟨-, -, hf, hn, hb, rfl⟩
  · exact h.withEnv _ (List.suffix_refl _)
  · exact h.withEnv _ (List.suffix_refl _)
  · exact Inv.startJob h.noDirect hf hn (List.length_take_of_le hb)

/-! ### Aborts -/

/-- An abort in a busy STATE records the stage and keeps everything else; the span of an underrun does not fit. -/
theorem Inv.abort {s : State} (h : Inv s) (h1 : 1 ≤ s.seq.toNat) (h8 : s.seq.toNat ≤ 8) {c : BitVec 4}
    (hc : c = Stage.underrun ∨ c = Stage.fatal)
    (hu : c = Stage.underrun → s.seq.toNat ≤ 7 ∧ s.streamLen < s.pos.toNat + s.stageSpan s.seq.toNat)
    (hf : c = Stage.fatal → s.seq = Stage.route) :
    Inv { s with result := resultOf c, errStage := s.seq, seq := c } := by
  have hr : ({ s with result := resultOf c, errStage := s.seq, seq := c } : State).reached = s.reached :=
    (State.reached_abort hc).trans (State.reached_eq_seq (by omega)).symm
  have hlegal : c.toNat ≤ 11 := by rcases hc with rfl | rfl <;> decide
  exact ⟨⟨hlegal, rfl, fun hnu hnf => (not_or.mpr ⟨hnu, hnf⟩ hc).elim, fun e => ⟨h1, (hu e).1⟩, hf⟩,
    ⟨h.pos.inBuffer, hr ▸ h.pos.stage, h.pos.byteAligned, fun e => (hu e).2⟩, h.valid.congr rfl rfl hr,
    h.hopIdx.congr rfl rfl hr, ⟨h.buf.canonical, h.buf.below⟩, fun _ => h.fphMin (ne_idle h1), h.noDirect⟩

theorem Inv.raiseUnderrun {s : State} (h : Inv s) (h1 : 1 ≤ s.seq.toNat) (h7 : s.seq.toNat ≤ 7)
    (hs : s.streamLen < s.pos.toNat + s.stageSpan s.seq.toNat) : Inv (s.raiseUnderrun s.seq) :=
  h.abort h1 (by omega) (c := Stage.underrun) (.inl rfl) (fun _ => ⟨h7, hs⟩) (fun e => absurd e (by decide))

theorem Inv.raiseSinkFailure {s : State} (h : Inv s) (hs : s.seq = Stage.route) : Inv s.raiseSinkFailure := by
  have hn : s.seq.toNat = 8 := congrArg BitVec.toNat hs
  have habort := h.abort (by omega) (by omega) (c := Stage.fatal) (.inr rfl) (fun e => absurd e (by decide)) (fun _ => hs)
  rwa [hs] at habort

/-! ### The job goes on -/

/-- A state of the same job that is not aborted keeps the invariant when RESULT, POS, the valid bits and HOP_IDX are those
of its STATE. -/
theorem Inv.goOn {s t : State} (h : Inv s) (h1 : 1 ≤ s.seq.toNat) (h8 : s.seq.toNat ≤ 8) (hj : SameJob s t)
    (h9 : t.seq.toNat ≤ 9) (hres : t.result = resultOf t.seq) (hfit : t.pos.toNat ≤ s.streamLen)
    (hpos : t.pos.toNat = t.stageStart t.seq.toNat) (hv : ValidBitsMatch t) (hh : HopIdxMatches t) : Inv t := by
  obtain ⟨hsu, hsf⟩ := ne_abort (c := s.seq) (by omega)
  obtain ⟨htu, htf⟩ := ne_abort h9
  refine ⟨⟨by omega, hres, fun _ _ => ?_, (absurd · htu), (absurd · htf)⟩, ⟨?_, ?_, ?_, (absurd · htu)⟩, hv, hh,
    ⟨?_, ?_⟩, fun _ => ?_, ?_⟩
  · rw [hj.errStage]; exact h.status.noError hsu hsf
  · rw [hj.len]; exact hfit
  · rw [State.reached_eq_seq h9]; exact hpos
  · rw [hpos]; exact t.stageStart_byteAligned _
  · rw [hj.buf]; exact h.buf.canonical
  · rw [hj.buf, hj.len]; exact h.buf.below
  · rw [hj.job]; exact h.fphMin (ne_idle h1)
  · exact State.noDirectRequest_of_suffix h.noDirect (hj.script ▸ List.suffix_refl _)

/-- A decoder adds its own valid bit to those of the headers before it. -/
theorem Decoded.validBitsMatch {s t : State} (hd : Decoded s t) (h : ValidBitsMatch s) (hi : HopIdxMatches s)
    (hs : s.reached = s.seq.toNat) (ht : t.reached = s.reached + 1 ∨ t.reached = 9 ∧ s.reached = 6) :
    ValidBitsMatch t := by
  have h7 := hd.last
  constructor
  · rw [hd.vReport, h.report, ← hs, ← Bool.decide_or, decide_eq_decide]; omega
  · rw [hd.vEth, h.eth, ← hs, ← Bool.decide_or, decide_eq_decide]; omega
  · rw [hd.vIpv4, h.ipv4, ← hs, ← Bool.decide_or, decide_eq_decide]; omega
  · rw [hd.vUdp, h.udp, ← hs, ← Bool.decide_or, decide_eq_decide]; omega
  · rw [hd.vShim, h.shim, ← hs, ← Bool.decide_or, decide_eq_decide]; omega
  · rw [hd.vIntmeta, h.intmeta, ← hs, ← Bool.decide_or, decide_eq_decide]; omega
  · have h0 := hi.headers
    rw [hd.vHop, h.hop, hd.hopIdx, ← hs, ← Bool.decide_or, ← Bool.decide_or, ← Bool.decide_and, ← Bool.decide_and,
      ← Bool.decide_or, decide_eq_decide]
    omega

/-- HOP_IDX stays; a first record is begun only where NT is not 0. -/
theorem Decoded.hopIdxMatches {s t : State} (hd : Decoded s t) (h : HopIdxMatches s) (hs : s.reached = s.seq.toNat)
    (ht : t.reached = t.seq.toNat) : HopIdxMatches t := by
  have h7 := hd.last
  have hnext := hd.next_or_done
  have h0 := h.headers
  have hrec := h.record
  constructor <;> rw [hd.hopIdx]
  · rw [hd.job]; exact h.le
  · omega
  · rw [hd.job]; omega
  · rw [hd.job]; omega

theorem Inv.decoded {s t : State} (h : Inv s) (hd : Decoded s t)
    (hfit : s.pos.toNat + s.stageSpan s.seq.toNat ≤ s.streamLen) : Inv t := by
  have h1 := hd.first
  have h7 := hd.last
  have hnext := hd.next_or_done
  have hs : s.reached = s.seq.toNat := State.reached_eq_seq (by omega)
  have ht : t.reached = t.seq.toNat := State.reached_eq_seq (by omega)
  have h0 : s.seq.toNat ≤ 6 → s.hopIdx.toNat = 0 := hs ▸ h.hopIdx.headers
  have hp : t.pos.toNat = s.pos.toNat + s.stageSpan s.seq.toNat := by
    have hlen := s.len.isLt
    rw [hd.pos]; exact Nat.mod_eq_of_lt (by simp only [State.streamLen] at hfit; omega)
  have hstart : ∀ n, t.stageStart n = s.stageStart n := fun n => by
    unfold State.stageStart; rw [hd.job, hd.hopIdx]
  refine h.goOn h1 (by omega) hd.toSameJob (by omega) ?_ (hp ▸ hfit) ?_
    (hd.validBitsMatch h.valid h.hopIdx hs (by omega)) (hd.hopIdxMatches h.hopIdx hs ht)
  · rcases hnext with ⟨hq, hr, -⟩ | ⟨hq, hr, -⟩
    · rw [hr, h.status.result, resultOf_running (by omega), resultOf_running (by omega)]
    · rw [hr, show t.seq = Stage.done from BitVec.eq_of_toNat_eq hq]; rfl
  · rw [hp, h.pos.stage, hs, State.stageStart_add_span s h1 h7 h0, hstart]
    rcases hnext with ⟨hq, -, -⟩ | ⟨hq, -, h6, -⟩
    · rw [hq]
    · rw [hq, h6]; rfl

/-! ### ROUTE -/

/-- After ROUTE all seven valid bits stay set: a record has been decoded. -/
theorem ValidBitsMatch.advanceHop {s : State} (h : ValidBitsMatch s) (hr : s.reached = 8)
    (ht : s.advanceHop.reached = 7 ∨ s.advanceHop.reached = 9)
    (hi : s.advanceHop.hopIdx.toNat = s.hopIdx.toNat + 1) : ValidBitsMatch s.advanceHop := by
  obtain ⟨report, eth, ipv4, udp, shim, intmeta, hop⟩ := h
  rw [hr] at report eth ipv4 udp shim intmeta hop
  constructor <;> rw [State.advanceHop_hdr]
  · rw [report, decide_eq_decide]; omega
  · rw [eth, decide_eq_decide]; omega
  · rw [ipv4, decide_eq_decide]; omega
  · rw [udp, decide_eq_decide]; omega
  · rw [shim, decide_eq_decide]; omega
  · rw [intmeta, decide_eq_decide]; omega
  · rw [hop, hi, ← Bool.decide_or, ← Bool.decide_or, ← Bool.decide_and, ← Bool.decide_and, decide_eq_decide]; omega

/-- STATE and RESULT after a record that was routed: the job is done after the last one. -/
theorem State.advanceHop_done_or_next (s : State) :
    (s.advanceHop.seq = Stage.done ∧ s.advanceHop.result = ResultCode.done ∧ s.hopIdx.toNat + 1 = s.job.nt.toNat)
    ∨ (s.advanceHop.seq = Stage.hop ∧ s.advanceHop.result = s.result ∧ s.hopIdx.toNat + 1 ≠ s.job.nt.toNat) := by
  by_cases hl : s.hopIdx.toNat + 1 = s.job.nt.toNat <;> simp [hl]

theorem Inv.advanceHop {s : State} (h : Inv s) (hs : s.seq = Stage.route) : Inv s.advanceHop := by
  have h8 : s.seq.toNat = 8 := congrArg BitVec.toNat hs
  have hr : s.reached = 8 := (State.reached_eq_seq (by omega)).trans h8
  have hlt : s.hopIdx.toNat < s.job.nt.toNat := h.hopIdx.record (.inr hr)
  have hi : s.advanceHop.hopIdx.toNat = s.hopIdx.toNat + 1 := by
    have hnt := s.job.nt.isLt
    rw [State.advanceHop_hopIdx]; exact Nat.mod_eq_of_lt (by omega)
  have hp : s.advanceHop.pos.toNat = 560 + 32 * s.advanceHop.job.fph.toNat * s.advanceHop.hopIdx.toNat := by
    rw [State.advanceHop_pos, h.pos.stage, hr, hi, State.advanceHop_job]; rfl
  have hn : (s.advanceHop.seq.toNat = 9 ∧ s.hopIdx.toNat + 1 = s.job.nt.toNat)
      ∨ (s.advanceHop.seq.toNat = 7 ∧ s.hopIdx.toNat + 1 ≠ s.job.nt.toNat) :=
    s.advanceHop_done_or_next.imp (fun ⟨e, _, hl⟩ => ⟨congrArg BitVec.toNat e, hl⟩)
      (fun ⟨e, _, hl⟩ => ⟨congrArg BitVec.toNat e, hl⟩)
  have ht : s.advanceHop.reached = s.advanceHop.seq.toNat := State.reached_eq_seq (by omega)
  refine h.goOn (by omega) (by omega) ?_ (by omega) ?_ ?_ ?_ (h.valid.advanceHop hr (by omega) hi) ?_
  · simp [sameJob_iff]
  · rcases s.advanceHop_done_or_next with ⟨e, er, -⟩ | ⟨e, er, -⟩
    · rw [e, er]; rfl
    · rw [e, er, h.status.result, hs]; rfl
  · rw [State.advanceHop_pos]; exact h.pos.inBuffer
  · rw [hp]; rcases hn with ⟨e, -⟩ | ⟨e, -⟩ <;> rw [e] <;> rfl
  · constructor <;> rw [hi]
    · rw [State.advanceHop_job]; omega
    · omega
    · rw [State.advanceHop_job]; omega
    · rw [State.advanceHop_job]; omega

theorem execRoute_keeps_inv {s t : State} (h : Inv s) (hs : s.seq = Stage.route) (ht : execRoute s = .next t) :
    Inv t := by
  rw [execRoute_eq] at ht
  split at ht
  · cases ht; exact h.advanceHop hs
  · next k _ =>
    have he : Inv (s.emitSink k (sampleValue s.job.kind s.hdr.hop)) := h.emitSink k _
    split at ht
    · cases ht; exact he.raiseSinkFailure hs
    · cases ht; exact he.advanceHop hs

/-! ### The agents -/

theorem coreStep_keeps_inv {s t : State} (h : Inv s) (ht : coreStep s = .next t) : Inv t := by
  rcases coreStep_kinds s h.fphMin with e | ⟨u, hu, e⟩ | ⟨hs, e⟩ | e <;> rw [e] at ht
  · cases ht; exact h
  · split at ht
    · next hfit => cases ht; exact h.decoded hu hfit
    · next hshort => cases ht; exact h.raiseUnderrun hu.first hu.last (Nat.not_le.mp hshort)
  · exact execRoute_keeps_inv h hs ht
  · cases ht

theorem registerCommand_keeps_inv {i : Instr} {s t : State} (h : Inv s)
    (hi : (∃ r x, i = .cfgw r x) ∨ (∃ r, i = .rdreg r) ∨ (∃ r, i = .rdhdr r)) (ht : exec i s = .next t) : Inv t := by
  obtain ⟨c, e, rfl, he⟩ := exec_registerCommand hi ht
  exact h.withOutside c s.sinkLog s.traceLog e (State.noDirectRequest_of_suffix h.noDirect (he ▸ List.suffix_refl _))

theorem commandStep_keeps_inv {s t : State} {w : Word} {bytes : List Byte} (h : Inv s)
    (ht : commandStep w bytes s = .next t) : Inv t := by
  have hb : Inv { s with env := { s.env with byteChannel := bytes } } := h.withEnv _ (List.suffix_refl _)
  unfold commandStep at ht
  split at ht
  · next i hd =>
    rcases decodeHost_cases hd with hi | hi | ⟨n, rfl⟩ | hi
    · exact registerCommand_keeps_inv hb (.inl hi) ht
    · exact registerCommand_keeps_inv hb (.inr (.inl hi)) ht
    · exact execSubmit_keeps_inv hb ht
    · exact registerCommand_keeps_inv hb (.inr (.inr hi)) ht
  · cases ht; exact hb.withEnv _ (List.suffix_refl _)

/-- The invariant is kept whichever agent acts; a direct request is not in the script. -/
theorem step_keeps_inv {s t : State} (h : Inv s) (ht : step s = .next t) : Inv t := by
  rcases step_agents ht with ⟨rest, hs, rfl⟩ | ⟨l, hl, ht⟩ | ⟨w, bytes, rest, -, hs, ht⟩ | ⟨x, -, -, ht⟩
    | ⟨q, rest, hs, -⟩
  · exact Inv.resetCore (State.noDirectRequest_of_suffix h.noDirect (hs ▸ List.suffix_cons _ _))
  · exact coreStep_keeps_inv (h.withEnv (s.withScript l).env hl) ht
  · exact commandStep_keeps_inv (h.withEnv (s.withScript rest).env (hs ▸ List.suffix_cons _ _)) ht
  · exact execSubmit_keeps_inv (h.withEnv { s.env with held := none, byteChannel := x.bytes } (List.suffix_refl _)) ht
  · exact absurd hs (State.noDirectRequest_head h.noDirect q rest)

/-- Settles O41, by the agent that acts: reset, the core by the kind of STATE, a command, or a held SUBMIT. -/
theorem stepKeepsInvariant : Obligations.StepKeepsInvariant := fun _ _ h ht => step_keeps_inv h ht

/-! ### Runs from reset -/

/-- A run of one step more that goes on has a first step that goes on. -/
theorem run_succ {s t : State} {n : Nat} (h : Sys2Proof.core.run (n + 1) s = .next t) :
    ∃ u, step s = .next u ∧ Sys2Proof.core.run n u = .next t := by
  cases hs : step s with
  | next u => exact ⟨u, rfl, (run_next hs n).symm.trans h⟩
  | fault r => simp [Host.Core.run, show Sys2Proof.core.step s = .fault r from hs] at h
  | refused r => simp [Host.Core.run, show Sys2Proof.core.step s = .refused r from hs] at h

/-- What every step keeps holds at the end of every run from a state in which it holds. -/
theorem run_keeps {P : State → Prop} (hstep : ∀ {s t}, P s → step s = .next t → P t) (n : Nat) {s t : State} (h : P s)
    (ht : Sys2Proof.core.run n s = .next t) : P t := by
  induction n generalizing s with
  | zero => cases ht; exact h
  | succ n ih =>
    obtain ⟨u, hu, hrun⟩ := run_succ ht
    exact ih (hstep h hu) hrun

theorem PosMatches.pos_of_running {s : State} (h : PosMatches s) {c : BitVec 4} (hc : s.seq = c) (h8 : c.toNat ≤ 8) :
    s.pos.toNat = s.stageStart c.toNat := by
  subst hc; rw [h.stage, State.reached_eq_seq (by omega)]

/-- Settles O43: the invariant holds at reset whatever the environment, every run keeps it, and R26 is read off it. -/
theorem runsFromResetKeepR26 : Obligations.RunsFromResetKeepR26 := by
  intro e n t hd hrun
  have hstart : Inv { State.reset with env := e } := Inv.withOutside resetSatisfiesInvariant CfgRegs.reset [] [] e hd
  have h : Inv t := run_keeps step_keeps_inv n hstart hrun
  have habort : t.seq = Stage.underrun → t.pos.toNat = t.stageStart t.errStage.toNat := fun hc => by
    rw [h.pos.stage, State.reached_abort (.inl hc)]
  refine ⟨h.pos.inBuffer, ⟨?_, ?_, ?_, ?_, ?_, ?_, ?_, ?_, fun hc => ⟨habort hc, h.pos.short hc⟩⟩, h.pos.byteAligned,
    h.valid, h.hopIdx.le, Nat.lt_succ_of_le h.status.legal⟩
  all_goals exact fun hc => h.pos.pos_of_running hc (by decide)

end Sys2Proof.Machine
end

section
/-! PROOFS. Every operation leaves what is in the logs, and the core's step commutes with a change of the configuration
registers. -/

namespace Sys2Proof.Machine

/-! ### SINK_LOG and TRACE_LOG (`10_state.md` R25) -/

/-- Both logs of `s` are the beginnings of those of `t`. -/
def LogsGrow (s t : State) : Prop := s.sinkLog <+: t.sinkLog ∧ s.traceLog <+: t.traceLog

theorem LogsGrow.refl (s : State) : LogsGrow s s := ⟨List.prefix_refl _, List.prefix_refl _⟩

theorem LogsGrow.of_eq {s t : State} (hs : t.sinkLog = s.sinkLog) (ht : t.traceLog = s.traceLog) : LogsGrow s t :=
  ⟨hs ▸ List.prefix_refl _, ht ▸ List.prefix_refl _⟩

theorem LogsGrow.trace (s : State) (e : TraceEvent) : LogsGrow s (s.trace e) := by
  refine ⟨List.prefix_refl _, ?_⟩
  rw [State.trace_traceLog]
  split
  · exact List.prefix_append _ _
  · exact List.prefix_refl _

theorem LogsGrow.emitSink (s : State) (k : SinkId) (v : BitVec 32) : LogsGrow s (s.emitSink k v) :=
  ⟨List.prefix_append _ _, List.prefix_refl _⟩

theorem execDecHop_logsGrow {s t : State} (h : execDecHop s = .next t) : LogsGrow s t := by
  unfold execDecHop at h
  split at h <;> cases h
  · exact .refl s
  · exact LogsGrow.trace ((s.setHop _).setPos _) _

theorem execRoute_logsGrow {s t : State} (h : execRoute s = .next t) : LogsGrow s t := by
  rw [execRoute_eq] at h
  split at h
  · cases h; exact .of_eq s.advanceHop_sinkLog s.advanceHop_traceLog
  · next k _ =>
    have hk := LogsGrow.emitSink s k (sampleValue s.job.kind s.hdr.hop)
    split at h
    · cases h; exact hk
    · cases h; simpa only [LogsGrow, State.advanceHop_sinkLog, State.advanceHop_traceLog] using hk

theorem State.afterIntmeta_logsGrow (s : State) : LogsGrow s s.afterIntmeta := by
  unfold State.afterIntmeta
  split <;> exact LogsGrow.trace ((s.setIntmeta _).setPos _) _

/-- A decoder leaves the logs when it underruns. -/
theorem LogsGrow.decode {s t u : State} {p : Prop} [Decidable p] {c : BitVec 4}
    (h : (Host.Outcome.next (if p then u else s.raiseUnderrun c) : Host.Outcome State Fault Refusal) = .next t)
    (hu : LogsGrow s u) : LogsGrow s t := by
  cases h
  split
  · exact hu
  · exact .refl s

/-- Only the decoders and ROUTE append to a log. -/
theorem exec_logsGrow {i : Instr} {s t : State} (h : exec i s = .next t) : LogsGrow s t := by
  cases i with
  | read w =>
    simp only [exec, execRead] at h
    split at h
    · split at h <;> cases h <;> exact .refl s
    · cases h
  | skip w =>
    simp only [exec, execSkip] at h
    split at h
    · split at h <;> cases h <;> exact .refl s
    · cases h
  | decReport => exact .decode ((execDecReport_eq s).symm.trans h) (LogsGrow.trace ((s.setReport _).setPos _) _)
  | decEth => exact .decode ((execDecEth_eq s).symm.trans h) (LogsGrow.trace ((s.setEth _).setPos _) _)
  | decIpv4 => exact .decode ((execDecIpv4_eq s).symm.trans h) (LogsGrow.trace ((s.setIpv4 _).setPos _) _)
  | decUdp => exact .decode ((execDecUdp_eq s).symm.trans h) (LogsGrow.trace ((s.setUdp _).setPos _) _)
  | decShim => exact .decode ((execDecShim_eq s).symm.trans h) (LogsGrow.trace ((s.setShim _).setPos _) _)
  | decIntmeta => exact .decode ((execDecIntmeta_eq s).symm.trans h) s.afterIntmeta_logsGrow
  | decHop => exact execDecHop_logsGrow h
  | route => exact execRoute_logsGrow h
  | cfgw r x =>
    obtain ⟨c, e, rfl, -⟩ := exec_registerCommand (.inl ⟨r, x, rfl⟩) h
    exact .refl s
  | rdreg r =>
    obtain ⟨c, e, rfl, -⟩ := exec_registerCommand (.inr (.inl ⟨r, rfl⟩)) h
    exact .refl s
  | submit n =>
    rcases execSubmit_cases h with ⟨-, rfl⟩ | ⟨-, r, rfl⟩ | ⟨-, -, -, -, -, rfl⟩ <;> exact .refl s
  | rdhdr r =>
    obtain ⟨c, e, rfl, -⟩ := exec_registerCommand (.inr (.inr ⟨r, rfl⟩)) h
    exact .refl s

/-- Settles O46: reset keeps the logs, and no operation drops an event. -/
theorem logsOnlyGrow : Obligations.LogsOnlyGrow := by
  intro s t h
  rcases step_cases h with ⟨rest, -, rfl⟩ | ⟨i, e, -, he, -⟩ | ⟨e, -, rfl⟩
  · exact LogsGrow.refl s
  · exact exec_logsGrow (s := { s with env := e }) he
  · exact LogsGrow.refl s

/-! ### The core step does not see the configuration registers (`10_state.md` R19) -/

/-- The same outcome in a state with the configuration registers `c`. -/
def withCfg (c : CfgRegs) : Host.Outcome State Fault Refusal → Host.Outcome State Fault Refusal
  | .next t => .next { t with cfg := c }
  | .fault r => .fault r
  | .refused r => .refused r

theorem State.advanceHop_withCfg (s : State) (c : CfgRegs) :
    ({ s with cfg := c } : State).advanceHop = { s.advanceHop with cfg := c } := by
  unfold State.advanceHop; dsimp only; split <;> rfl

theorem State.afterIntmeta_withCfg (s : State) (c : CfgRegs) :
    ({ s with cfg := c } : State).afterIntmeta = { s.afterIntmeta with cfg := c } := by
  unfold State.afterIntmeta; dsimp only; split <;> rfl

theorem execDecHop_withCfg (s : State) (c : CfgRegs) :
    execDecHop { s with cfg := c } = withCfg c (execDecHop s) := by
  unfold execDecHop
  rw [decodeRecord_congr (s := { s with cfg := c }) (t := s) rfl rfl rfl rfl]
  split <;> rfl

theorem execRoute_withCfg (s : State) (c : CfgRegs) :
    execRoute { s with cfg := c } = withCfg c (execRoute s) := by
  rw [execRoute_eq, execRoute_eq]
  dsimp only
  split
  · rw [State.advanceHop_withCfg]; rfl
  · next k _ =>
    have hr : ({ s with cfg := c } : State).sinkReply = s.sinkReply := rfl
    rw [hr]
    split
    · rfl
    · exact congrArg _ (State.advanceHop_withCfg (s.emitSink k _) c)

/-- A decoder commutes with the change when its result does; an underrun always does. -/
theorem decode_withCfg {s u u' : State} {p : Prop} [Decidable p] {c : CfgRegs} {n : BitVec 4}
    (h : u' = { u with cfg := c }) :
    Host.Outcome.next (if p then u' else ({ s with cfg := c } : State).raiseUnderrun n)
      = withCfg c (.next (if p then u else s.raiseUnderrun n)) := by
  subst h; split <;> rfl

/-- STATE selects one of the eight sequencer operations or none. -/
theorem decodeSequencer_ok {c : BitVec 4} {i : Instr} (h : decodeSequencer c = .ok i) :
    i = .decReport ∨ i = .decEth ∨ i = .decIpv4 ∨ i = .decUdp ∨ i = .decShim ∨ i = .decIntmeta ∨ i = .decHop
      ∨ i = .route := by
  unfold decodeSequencer at h
  split at h <;> cases h <;> simp

theorem coreStep_withCfg (s : State) (c : CfgRegs) : coreStep { s with cfg := c } = withCfg c (coreStep s) := by
  unfold coreStep
  dsimp only
  split
  · next i hi =>
    rcases decodeSequencer_ok hi with rfl | rfl | rfl | rfl | rfl | rfl | rfl | rfl <;> dsimp only [exec]
    · rw [execDecReport_eq, execDecReport_eq]; exact decode_withCfg rfl
    · rw [execDecEth_eq, execDecEth_eq]; exact decode_withCfg rfl
    · rw [execDecIpv4_eq, execDecIpv4_eq]; exact decode_withCfg rfl
    · rw [execDecUdp_eq, execDecUdp_eq]; exact decode_withCfg rfl
    · rw [execDecShim_eq, execDecShim_eq]; exact decode_withCfg rfl
    · rw [execDecIntmeta_eq, execDecIntmeta_eq]; exact decode_withCfg (s.afterIntmeta_withCfg c)
    · exact execDecHop_withCfg s c
    · exact execRoute_withCfg s c
  · rfl
  · rfl

/-- Settles O50: the core's step commutes with a change of the configuration registers. -/
theorem runningJobIgnoresConfiguration : Obligations.RunningJobIgnoresConfiguration := by
  intro s t c h
  rw [coreStep_withCfg, h]; rfl

end Sys2Proof.Machine
end

section
/-! PROOFS. BUF as a bit stream (`20_memory.md` R29 to R31): a field is the weighted sum of its stream bits, and on a byte
boundary it is the big-endian value of its bytes. -/

namespace Sys2Proof.Machine

/-- Horner's step: one more digit in base `b` multiplies the digits before it by `b`. -/
theorem sum_digits_succ (b : Nat) (d : Nat → Nat) (n : Nat) :
    ∑ j ∈ Finset.range (n + 1), d j * b ^ (n + 1 - 1 - j) = b * ∑ j ∈ Finset.range n, d j * b ^ (n - 1 - j) + d n := by
  rw [Finset.sum_range_succ, Nat.add_sub_cancel, Nat.sub_self, pow_zero, mul_one, Finset.mul_sum]
  refine congrArg (· + d n) (Finset.sum_congr rfl fun j hj => ?_)
  have hlt : j < n := Finset.mem_range.mp hj
  rw [show n - j = n - 1 - j + 1 by omega, pow_succ]
  ring

theorem bitsAt_eq_sum (m : Memory) (p w : Nat) :
    bitsAt m p w = ∑ j ∈ Finset.range w, (streamBit m (p + j)).toNat * 2 ^ (w - 1 - j) := by
  induction w with
  | zero => rfl
  | succ w ih => rw [sum_digits_succ 2 fun j => (streamBit m (p + j)).toNat, ← ih]; rfl

theorem memRead_eq_sum (m : Memory) (a n : Nat) :
    memRead m a n = ∑ i ∈ Finset.range n, (m.read (a + i)).toNat * (2 ^ 8) ^ (n - 1 - i) := by
  induction n with
  | zero => rfl
  | succ n ih => rw [sum_digits_succ (2 ^ 8) fun i => (m.read (a + i)).toNat, ← ih]; rfl

/-- Settles O13: each bit read is one Horner step. -/
theorem fieldIsWeightedSumOfStreamBits : Obligations.FieldIsWeightedSumOfStreamBits := bitsAt_eq_sum

/-- Stream bit 8k + j is bit 7 − j of BUF[k] (R29). -/
theorem streamBit_byte (m : Memory) (k : Nat) {j : Nat} (hj : j < 8) :
    streamBit m (8 * k + j) = (m.read k).getLsbD (7 - j) := by
  have hk : (8 * k + j) / 8 = k := by omega
  have hm : (8 * k + j) % 8 = j := by omega
  rw [streamBit, hk, hm]

/-- The eight stream bits of one byte are its value. -/
theorem bitsAt_byte (m : Memory) (k : Nat) : bitsAt m (8 * k) 8 = (m.read k).toNat := by
  have hbits : BitVec.ofNat 8 (bitsAt m (8 * k) 8) = m.read k := BitVec.eq_of_getLsbD_eq fun i hi => by
    have hbit := bitsAt_testBit m (8 * k) 8 (7 - i) (by omega)
    rw [streamBit_byte m k (by omega), show 8 - 1 - (7 - i) = i by omega] at hbit
    rw [BitVec.getLsbD_ofNat, hbit, decide_eq_true hi, Bool.true_and]
  rw [← hbits, BitVec.toNat_ofNat, Nat.mod_eq_of_lt (bitsAt_lt m (8 * k) 8)]

theorem bitsAt_eq_memRead (m : Memory) (a n : Nat) : bitsAt m (8 * a) (8 * n) = memRead m a n := by
  induction n with
  | zero => rfl
  | succ n ih => rw [Nat.mul_succ, bitsAt_add, ih, ← Nat.mul_add, bitsAt_byte]; rfl

/-- Settles O14: each byte is one Horner step in base 2^8, and the eight stream bits of a byte are its value. -/
theorem byteAlignedFieldIsBigEndian : Obligations.ByteAlignedFieldIsBigEndian := by
  refine ⟨fun m a n => ?_, bitsAt_eq_memRead, by decide⟩
  simp only [memRead_eq_sum, pow_mul]

/-- Settles O15: the stream bit is a bit of its byte, which reads back as it was loaded. -/
theorem streamBitsAreMostSignificantFirst : Obligations.StreamBitsAreMostSignificantFirst := by
  intro bytes k j hk hj
  rw [streamBit_byte _ k hj, Memory.read_load, List.getD_eq_getElem _ _ hk]

end Sys2Proof.Machine
end

section
/-! PROOFS. The frame of every operation: what each one may write, said once, and what follows for each part of the state. -/

namespace Sys2Proof.Machine

/-! ### What each operation may write -/

/-- The decoder `i` turns the header registers `h` into the third argument: its own register is written and valid. -/
inductive DecoderWrites (h : HdrRegs) : Instr → HdrRegs → Prop
  | report (x : ReportHdr) : DecoderWrites h .decReport { h with report := x, vReport := true }
  | eth (x : EthHdr) : DecoderWrites h .decEth { h with eth := x, vEth := true }
  | ipv4 (x : Ipv4Hdr) : DecoderWrites h .decIpv4 { h with ipv4 := x, vIpv4 := true }
  | udp (x : UdpHdr) : DecoderWrites h .decUdp { h with udp := x, vUdp := true }
  | shim (x : ShimHdr) : DecoderWrites h .decShim { h with shim := x, vShim := true }
  | intmeta (x : IntmetaHdr) : DecoderWrites h .decIntmeta { h with intmeta := x, vIntmeta := true }
  | hop (x : HopRecord) : DecoderWrites h .decHop { h with hop := x, vHop := true }

/-- The states that operation `i` can give from `s`: the written parts are arbitrary, all others are those of `s`. An
answer, a refusal and a held SUBMIT touch the environment only. -/
inductive ExecEffect (s : State) : Instr → State → Prop
  | environment (i : Instr) (e : Env) : ExecEffect s i { s with env := e }
  | underrun (i : Instr) (c : BitVec 4) : ExecEffect s i (s.raiseUnderrun c)
  | read (w : Nat) (p : BitVec 19) (e : Env) : ExecEffect s (.read w) { s with pos := p, env := e }
  | skip (w : Nat) (p : BitVec 19) : ExecEffect s (.skip w) { s with pos := p }
  | decode {i : Instr} {h : HdrRegs} (hw : DecoderWrites s.hdr i h) (c : BitVec 4) (p : BitVec 19) (r : BitVec 2)
      (l : List TraceEvent) : ExecEffect s i { s with seq := c, pos := p, result := r, hdr := h, traceLog := l }
  | route (c : BitVec 4) (n : BitVec 8) (r : BitVec 2) (x : BitVec 4) (l : List SinkEvent) (e : Env) :
      ExecEffect s .route { s with seq := c, hopIdx := n, result := r, errStage := x, sinkLog := l, env := e }
  | cfgw (r : RegSel) (x : BitVec 16) (c : CfgRegs) : ExecEffect s (.cfgw r x) { s with cfg := c }
  | startJob (n : Nat) (bytes : List Byte) : ExecEffect s (.submit n) (s.startJob n bytes)

variable {s t : State} {i : Instr}

theorem execRead_effect {w : Nat} (h : execRead w s = .next t) : ExecEffect s (.read w) t := by
  unfold execRead at h
  split at h
  · split at h <;> cases h
    · exact .underrun _ _
    · exact .read w _ _
  · cases h

theorem execSkip_effect {w : Nat} (h : execSkip w s = .next t) : ExecEffect s (.skip w) t := by
  unfold execSkip at h
  split at h
  · split at h <;> cases h
    · exact .underrun _ _
    · exact .skip w _
  · cases h

/-- A header decoder has the effect of its decode, or underruns. -/
theorem ExecEffect.fits_or_underruns {u : State} {p : Prop} [Decidable p] {c : BitVec 4}
    (h : (Host.Outcome.next (if p then u else s.raiseUnderrun c) : Host.Outcome State Fault Refusal) = .next t)
    (hu : ExecEffect s i u) : ExecEffect s i t := by
  cases h
  split
  · exact hu
  · exact .underrun _ _

theorem ExecEffect.afterIntmeta (s : State) : ExecEffect s .decIntmeta s.afterIntmeta := by
  unfold State.afterIntmeta
  split <;> exact .decode (.intmeta _) _ _ _ _

theorem execDecHop_effect (h : execDecHop s = .next t) : ExecEffect s .decHop t := by
  unfold execDecHop at h
  split at h <;> cases h
  · exact .underrun _ _
  · exact .decode (.hop _) _ _ _ _

theorem ExecEffect.advanceHop (s : State) (l : List SinkEvent) (e : Env) :
    ExecEffect s .route ({ s with sinkLog := l, env := e } : State).advanceHop := by
  unfold State.advanceHop
  dsimp only
  split <;> exact .route _ _ _ _ _ _

theorem execRoute_effect (h : execRoute s = .next t) : ExecEffect s .route t := by
  rw [execRoute_eq] at h
  split at h
  · cases h; exact .advanceHop s s.sinkLog s.env
  · split at h <;> cases h
    · exact .route _ _ _ _ _ _
    · exact .advanceHop s _ _

theorem execCfgw_effect {r : RegSel} {x : BitVec 16} (h : execCfgw r x s = .next t) : ExecEffect s (.cfgw r x) t := by
  unfold execCfgw at h
  split at h <;> cases h
  · exact .environment _ _
  · exact .cfgw r x _

theorem execRdreg_effect {r : RegSel} (h : execRdreg r s = .next t) : ExecEffect s (.rdreg r) t := by
  unfold execRdreg at h
  split at h <;> cases h <;> exact .environment _ _

theorem execRdhdr_effect {r : HdrSel} (h : execRdhdr r s = .next t) : ExecEffect s (.rdhdr r) t := by
  unfold execRdhdr at h
  split at h <;> cases h <;> exact .environment _ _

theorem execSubmit_effect {n : Nat} (h : execSubmit n s = .next t) : ExecEffect s (.submit n) t := by
  rcases execSubmit_cases h with ⟨-, rfl⟩ | ⟨-, r, rfl⟩ | ⟨-, -, -, -, -, rfl⟩
  · exact .environment _ _
  · exact .environment _ _
  · exact .startJob n _

theorem exec_effect (h : exec i s = .next t) : ExecEffect s i t := by
  cases i with
  | read w => exact execRead_effect h
  | skip w => exact execSkip_effect h
  | decReport => exact .fits_or_underruns ((execDecReport_eq s).symm.trans h) (.decode (.report _) _ _ _ _)
  | decEth => exact .fits_or_underruns ((execDecEth_eq s).symm.trans h) (.decode (.eth _) _ _ _ _)
  | decIpv4 => exact .fits_or_underruns ((execDecIpv4_eq s).symm.trans h) (.decode (.ipv4 _) _ _ _ _)
  | decUdp => exact .fits_or_underruns ((execDecUdp_eq s).symm.trans h) (.decode (.udp _) _ _ _ _)
  | decShim => exact .fits_or_underruns ((execDecShim_eq s).symm.trans h) (.decode (.shim _) _ _ _ _)
  | decIntmeta => exact .fits_or_underruns ((execDecIntmeta_eq s).symm.trans h) (.afterIntmeta s)
  | decHop => exact execDecHop_effect h
  | route => exact execRoute_effect h
  | cfgw r x => exact execCfgw_effect h
  | rdreg r => exact execRdreg_effect h
  | submit n => exact execSubmit_effect h
  | rdhdr r => exact execRdhdr_effect h

/-! ### What each part of the state is kept by -/

theorem ExecEffect.keeps_payload (e : ExecEffect s i t) (hi : ∀ n, i ≠ .submit n) :
    t.buf = s.buf ∧ t.len = s.len ∧ t.job = s.job := by
  cases e with
  | startJob n bytes => exact absurd rfl (hi n)
  | _ => exact ⟨rfl, rfl, rfl⟩

theorem ExecEffect.keeps_cfg (e : ExecEffect s i t) (hi : ∀ r x, i ≠ .cfgw r x) : t.cfg = s.cfg := by
  cases e with
  | cfgw r x c => exact absurd rfl (hi r x)
  | _ => rfl

theorem ExecEffect.keeps_sinkLog (e : ExecEffect s i t) (hi : i ≠ .route) : t.sinkLog = s.sinkLog := by
  cases e with
  | route => exact absurd rfl hi
  | _ => rfl

theorem ExecEffect.keeps_traceLog (e : ExecEffect s i t) (hi : ∀ h h', ¬ DecoderWrites h i h') :
    t.traceLog = s.traceLog := by
  cases e with
  | decode hw => exact absurd hw (hi _ _)
  | _ => rfl

theorem ExecEffect.keeps_hopIdx (e : ExecEffect s i t) (hr : i ≠ .route) (hs : ∀ n, i ≠ .submit n) :
    t.hopIdx = s.hopIdx := by
  cases e with
  | route => exact absurd rfl hr
  | startJob n bytes => exact absurd rfl (hs n)
  | _ => rfl

theorem ExecEffect.keeps_pos (e : ExecEffect s i t)
    (hi : i = .route ∨ (∃ r x, i = .cfgw r x) ∨ (∃ r, i = .rdreg r) ∨ (∃ h, i = .rdhdr h)) : t.pos = s.pos := by
  cases e with
  | read | skip | startJob => simp at hi
  | decode hw => cases hw <;> simp at hi
  | _ => rfl

/-! ### The header registers -/

/-- A register `f` with its valid bit `v` that no decoder `i` writes: only the valid bit can change, by a SUBMIT. -/
theorem ExecEffect.keeps_hdr (e : ExecEffect s i t) {α : Type} (f : HdrRegs → α) (v : HdrRegs → Bool)
    (hf : f s.hdr.invalidate = f s.hdr) (hw : ∀ {h}, DecoderWrites s.hdr i h → f h = f s.hdr ∧ v h = v s.hdr) :
    f t.hdr = f s.hdr ∧ ((∀ n, i ≠ .submit n) → v t.hdr = v s.hdr) := by
  cases e with
  | decode hd => exact ⟨(hw hd).1, fun _ => (hw hd).2⟩
  | startJob n bytes => exact ⟨hf, fun hs => absurd rfl (hs n)⟩
  | _ => exact ⟨rfl, fun _ => rfl⟩

/-- Only a SUBMIT clears a valid bit. -/
theorem ExecEffect.validBits_grow (e : ExecEffect s i t) (hi : ∀ n, i ≠ .submit n) :
    t.hdr = { t.hdr with
      vReport := s.hdr.vReport || t.hdr.vReport, vEth := s.hdr.vEth || t.hdr.vEth, vIpv4 := s.hdr.vIpv4 || t.hdr.vIpv4,
      vUdp := s.hdr.vUdp || t.hdr.vUdp, vShim := s.hdr.vShim || t.hdr.vShim,
      vIntmeta := s.hdr.vIntmeta || t.hdr.vIntmeta, vHop := s.hdr.vHop || t.hdr.vHop } := by
  cases e with
  | decode hw => cases hw <;> simp only [Bool.or_self, Bool.or_true]
  | startJob n bytes => exact absurd rfl (hi n)
  | _ => simp only [Bool.or_self, State.raiseUnderrun_hdr]

theorem execSubmit_hdr {n : Nat} (h : execSubmit n s = .next t) : t.hdr = s.hdr ∨ t.hdr = s.hdr.invalidate := by
  rcases execSubmit_cases h with ⟨-, rfl⟩ | ⟨-, r, rfl⟩ | ⟨-, -, -, -, -, rfl⟩
  · exact .inl rfl
  · exact .inl rfl
  · exact .inr rfl

/-- Settles O45: the effect of an operation leaves every part that the operation does not write. -/
theorem everyOperationKeepsItsFrame : Obligations.EveryOperationKeepsItsFrame := by
  intro i s t h
  have e := exec_effect h
  refine ⟨e.keeps_payload, e.keeps_cfg, e.validBits_grow, ?submit, ?report, ?eth, ?ipv4, ?udp, ?shim, ?intmeta, ?hop,
    e.keeps_sinkLog, ?trace, e.keeps_hopIdx, e.keeps_pos, ?register⟩
  case submit => rintro n rfl; exact execSubmit_hdr h
  case report =>
    refine fun hi => e.keeps_hdr (·.report) (·.vReport) rfl fun hw => ?_
    cases hw with | report => exact absurd rfl hi | _ => exact ⟨rfl, rfl⟩
  case eth =>
    refine fun hi => e.keeps_hdr (·.eth) (·.vEth) rfl fun hw => ?_
    cases hw with | eth => exact absurd rfl hi | _ => exact ⟨rfl, rfl⟩
  case ipv4 =>
    refine fun hi => e.keeps_hdr (·.ipv4) (·.vIpv4) rfl fun hw => ?_
    cases hw with | ipv4 => exact absurd rfl hi | _ => exact ⟨rfl, rfl⟩
  case udp =>
    refine fun hi => e.keeps_hdr (·.udp) (·.vUdp) rfl fun hw => ?_
    cases hw with | udp => exact absurd rfl hi | _ => exact ⟨rfl, rfl⟩
  case shim =>
    refine fun hi => e.keeps_hdr (·.shim) (·.vShim) rfl fun hw => ?_
    cases hw with | shim => exact absurd rfl hi | _ => exact ⟨rfl, rfl⟩
  case intmeta =>
    refine fun hi => e.keeps_hdr (·.intmeta) (·.vIntmeta) rfl fun hw => ?_
    cases hw with | intmeta => exact absurd rfl hi | _ => exact ⟨rfl, rfl⟩
  case hop =>
    refine fun hi => e.keeps_hdr (·.hop) (·.vHop) rfl fun hw => ?_
    cases hw with | hop => exact absurd rfl hi | _ => exact ⟨rfl, rfl⟩
  case trace =>
    intro hr he h4 hu hs hm hh
    refine e.keeps_traceLog fun _ _ hw => ?_
    cases hw <;> contradiction
  case register =>
    intro hi
    obtain ⟨c, v, rfl, -⟩ := exec_registerCommand hi h
    rfl

end Sys2Proof.Machine
end

section
/-! PROOFS. The encoding (`30_encoding.md`): decoding and encoding undo each other in all three formats, the words the
decoders reject, a placed word as the next operation, and CONFIG as four CFGW. -/

namespace Sys2Proof

/-! ### Round trips (R55 to R57) -/

/-- Settles O1: one round trip per constructor. -/
theorem decodeOfEncodeIsIdentity : Obligations.DecodeOfEncodeIsIdentity := by
  intro i
  cases i with
  | read w => exact Laws.RoundTrip.read w
  | skip w => exact Laws.RoundTrip.skip w
  | decReport => exact Laws.RoundTrip.decReport
  | decEth => exact Laws.RoundTrip.decEth
  | decIpv4 => exact Laws.RoundTrip.decIpv4
  | decUdp => exact Laws.RoundTrip.decUdp
  | decShim => exact Laws.RoundTrip.decShim
  | decIntmeta => exact Laws.RoundTrip.decIntmeta
  | decHop => exact Laws.RoundTrip.decHop
  | route => exact Laws.RoundTrip.route
  | cfgw r x => exact Laws.RoundTrip.cfgw r x
  | rdreg r => exact Laws.RoundTrip.rdreg r
  | submit len => exact Laws.RoundTrip.submit len
  | rdhdr h => exact Laws.RoundTrip.rdhdr h

theorem encode_decodeCursor {q : BitVec 16} {i : Instr} (h : decodeCursor q = .ok i) :
    i.WellFormed = true ∧ encode i = .cursor q := by
  simp only [decodeCursor] at h
  split at h
  · cases h
  next hres =>
  have hq := cursorWord_fields q (not_not.mp hres)
  split at h
  · next hk =>
    cases h
    exact ⟨decide_eq_true (Nat.le_pred_of_lt (BitVec.isLt _)), congrArg CodeWord.cursor (by rw [← hk, hq])⟩
  next hk =>
  split at h
  · next hw =>
    cases h
    exact ⟨decide_eq_true hw, congrArg CodeWord.cursor (by rw [← (q.extractLsb' 15 1).eq_zero_or_eq_one.resolve_right hk, hq])⟩
  · cases h

theorem encode_decodeSequencer {c : BitVec 4} {i : Instr} (h : decodeSequencer c = .ok i) :
    i.WellFormed = true ∧ encode i = .sequencer c := by
  unfold decodeSequencer at h
  split at h <;> cases h
  all_goals
    next hc => exact ⟨rfl, congrArg CodeWord.sequencer (BitVec.eq_of_toNat_eq hc.symm)⟩

theorem encode_decodeHost {w : Word} {i : Instr} (h : decodeHost w = .ok i) :
    i.WellFormed = true ∧ encode i = .host w := by
  simp only [decodeHost] at h
  split at h
  · cases h
  next hres =>
  have hw := hostWord_fields w (not_not.mp hres)
  split at h
  · next hop =>
    cases h
    exact ⟨rfl, congrArg CodeWord.host (by rw [RegSel.code_ofCode, ← hop, hw])⟩
  split at h
  · next hop =>
    split at h
    · next himm =>
      cases h
      exact ⟨rfl, congrArg CodeWord.host (by rw [RegSel.code_ofCode, ← hop, ← himm, hw])⟩
    · cases h
  split at h
  · next hop =>
    split at h
    · next hsel =>
      cases h
      exact ⟨decide_eq_true (BitVec.isLt _),
        congrArg CodeWord.host (by rw [BitVec.ofNat_toNat, BitVec.setWidth_eq, ← hop, ← hsel, hw])⟩
    · cases h
  split at h
  · next hop =>
    split at h
    · next himm =>
      cases h
      exact ⟨rfl, congrArg CodeWord.host (by rw [HdrSel.code_ofCode, ← hop, ← himm, hw])⟩
    · cases h
  · cases h

/-- Settles O2, by the format of the word: it is built from its own fields, the reserved ones being zero. -/
theorem decodedWordIsItsOwnEncoding : Obligations.DecodedWordIsItsOwnEncoding := by
  intro c i h
  cases c with
  | cursor q => exact encode_decodeCursor h
  | sequencer c => exact encode_decodeSequencer h
  | host w => exact encode_decodeHost h

/-! ### The rejected words (R59) -/

theorem decodeHost_error_iff (w : Word) : (∃ r, decodeHost w = .error r) ↔
    (w.extractLsb' 28 4 = 0#4 ∨ 4#4 < w.extractLsb' 28 4) ∨ w.extractLsb' 16 8 ≠ 0#8
      ∨ ((w.extractLsb' 28 4 = 2#4 ∨ w.extractLsb' 28 4 = 4#4) ∧ w.extractLsb' 0 16 ≠ 0#16)
      ∨ (w.extractLsb' 28 4 = 3#4 ∧ w.extractLsb' 24 4 ≠ 0#4) := by
  have outside : ∀ c : BitVec 4, c ≠ 1#4 → c ≠ 2#4 → c ≠ 3#4 → c ≠ 4#4 → c = 0#4 ∨ 4#4 < c := by decide
  simp only [decodeHost]
  split
  · next hres => simp [hres]
  next hres =>
  split
  · next hop => simp [hop, hres]
  next h1 =>
  split
  · next hop => split <;> next himm => simp [hop, hres, himm]
  next h2 =>
  split
  · next hop => split <;> next hsel => simp [hop, hres, hsel]
  next h3 =>
  split
  · next hop => split <;> next himm => simp [hop, hres, himm]
  next h4 => simp [outside _ h1 h2 h3 h4]

theorem decodeCursor_error_iff (q : BitVec 16) : (∃ r, decodeCursor q = .error r) ↔
    q.extractLsb' 13 2 ≠ 0#2 ∨ (q.extractLsb' 15 1 = 0#1 ∧ 48 < (q.extractLsb' 0 13).toNat) := by
  simp only [decodeCursor]
  split
  · next hres => simp [hres]
  next hres =>
  split
  · next hk => simp [hres, hk]
  next hk =>
  have hk0 := (q.extractLsb' 15 1).eq_zero_or_eq_one.resolve_right hk
  split
  · next hw => exact iff_of_false nofun (not_or.mpr ⟨hres, fun h => absurd h.2 (Nat.not_lt.mpr hw)⟩)
  · next hw => exact iff_of_true ⟨_, rfl⟩ (.inr ⟨hk0, Nat.not_le.mp hw⟩)

theorem decodeSequencer_reserved_iff : ∀ c : BitVec 4, decodeSequencer c = .error .reservedState ↔ 12 ≤ c.toNat := by
  decide

/-- Settles O3, by the branches of each decoder. -/
theorem illegalWordsAreExactlyTheListed : Obligations.IllegalWordsAreExactlyTheListed :=
  ⟨decodeHost_error_iff, decodeCursor_error_iff, decodeSequencer_reserved_iff⟩

end Sys2Proof

namespace Sys2Proof.Machine

/-! ### The step of each agent when nothing is held -/

section
variable {s : State} {i : Instr} {rest : List ScriptEvent}

theorem step_coreTurn (hd : decodeSequencer s.seq = .ok i) (hh : s.env.held = none)
    (hs : s.env.script = .coreTurn :: rest) : step s = exec i (s.withScript rest) := by
  have hseq : s.seq.toNat < 12 := by
    by_contra hge
    cases hd.symm.trans ((decodeSequencer_reserved_iff _).mpr (Nat.not_lt.mp hge))
  simp only [step_eq_agent hseq, agentStep, hs, hh, coreStep, State.withScript_seq, hd]

theorem step_command {w : Word} {bytes : List Byte} (hseq : s.seq.toNat < 12) (hh : s.env.held = none)
    (hs : s.env.script = .command w bytes :: rest) (hd : decodeHost w = .ok i) :
    step s = exec i { s with env := { s.env with script := rest, byteChannel := bytes } } := by
  simp only [step_eq_agent hseq, agentStep, hs, hh, commandStep, hd, State.withScript]

theorem step_cursorRequest {q : BitVec 16} (hseq : s.seq.toNat < 12) (hh : s.env.held = none)
    (hs : s.env.script = .cursorRequest q :: rest) (hd : decodeCursor q = .ok i) :
    step s = exec i (s.withScript rest) := by
  simp only [step_eq_agent hseq, agentStep, hs, hh, cursorStep, hd]

end

/-! ### A placed word (log 14, log 15) -/

/-- The state at which a placed code word's operation runs. -/
def State.atPlaced (s : State) : CodeWord → State
  | .sequencer c => { s with seq := c, env := { s.env with held := none } }
  | .cursor _ => { s with env := { s.env with held := none } }
  | .host w => { s with env := { s.env with held := none, byteChannel := placedBytes w } }

theorem step_placeCode {s : State} {c : CodeWord} {i : Instr} (hd : decode c = .ok i)
    (hseq : (∃ k, c = .sequencer k) ∨ s.seq.toNat < 12) : step (s.placeCode c) = exec i (s.atPlaced c) := by
  cases c with
  | sequencer c => exact step_coreTurn (s := s.placeCode (.sequencer c)) hd rfl rfl
  | cursor q => exact step_cursorRequest (s := s.placeCode (.cursor q)) (hseq.resolve_left nofun) rfl rfl hd
  | host w => exact step_command (s := s.placeCode (.host w)) (hseq.resolve_left nofun) rfl rfl hd

theorem placedBytes_submit {w : Word} {n : Nat} (h : decodeHost w = .ok (.submit n)) :
    placedBytes w = List.replicate n 0#8 := by simp only [placedBytes, h]

theorem placedBytes_of_ne_submit {w : Word} {i : Instr} (h : decodeHost w = .ok i) (hi : ∀ n, i ≠ .submit n) :
    placedBytes w = [] := by
  unfold placedBytes
  split
  · next n hn => cases h.symm.trans hn; exact absurd rfl (hi n)
  · rfl

/-- A row's width tells the format of its word (log 15). -/
theorem tableWord_ok {nbits w : Nat} {c : CodeWord} (h : tableWord nbits w = .ok c) :
    (nbits ≤ 8 ∧ c = .sequencer (BitVec.ofNat 4 w)) ∨ (8 < nbits ∧ nbits ≤ 16 ∧ c = .cursor (BitVec.ofNat 16 w))
      ∨ (16 < nbits ∧ c = .host (BitVec.ofNat 32 w)) := by
  unfold tableWord at h
  split at h
  · next h8 => split at h <;> cases h; exact .inl ⟨h8, rfl⟩
  next h8 =>
  split at h
  · next h16 => split at h <;> cases h; exact .inr (.inl ⟨Nat.not_le.mp h8, h16, rfl⟩)
  · next h16 => split at h <;> cases h; exact .inr (.inr ⟨Nat.not_le.mp h16, rfl⟩)

theorem decodeTableWord_some {nbits w : Nat} {i : Instr} (h : decodeTableWord nbits w = some i) :
    ∃ c, tableWord nbits w = .ok c ∧ decode c = .ok i := by
  unfold decodeTableWord at h
  split at h
  · cases h
  next c hc =>
  split at h
  · next hd => cases h; exact ⟨c, hc, hd⟩
  · cases h

theorem withFetchWord_eq {nbits w : Nat} {c : CodeWord} (s : State) (h : tableWord nbits w = .ok c) :
    s.withFetchWord nbits w = s.placeCode c := by simp only [State.withFetchWord, h]

/-- Settles O6, by the format of the placed word: only a host word brings bytes, only a sequencer code is in STATE. -/
theorem placedWordIsTheNextOperation : Obligations.PlacedWordIsTheNextOperation := by
  intro s nbits w i h hseq
  obtain ⟨c, hc, hd⟩ := decodeTableWord_some h
  rw [withFetchWord_eq s hc]
  rcases tableWord_ok hc with ⟨h8, rfl⟩ | ⟨h8, h16, rfl⟩ | ⟨h16, rfl⟩
  · have hi : ∀ n, i ≠ .submit n := by
      rintro n rfl
      simpa using decodeSequencer_ok hd
    exact ⟨_, step_placeCode hd (.inl ⟨_, rfl⟩), rfl, fun _ => rfl, by omega, fun _ => rfl,
      fun n hn => absurd hn (hi n), by omega⟩
  · have hi : ∀ n, i ≠ .submit n := by
      rintro n rfl
      simpa using decodeCursor_cases hd
    exact ⟨_, step_placeCode hd (.inr (by omega)), rfl, by omega, fun _ => rfl, fun _ => rfl,
      fun n hn => absurd hn (hi n), by omega⟩
  · refine ⟨_, step_placeCode hd (.inr (by omega)), rfl, by omega, fun _ => rfl, by omega, ?_, fun _ hi => ?_⟩
    · rintro n rfl
      exact placedBytes_submit hd
    · exact placedBytes_of_ne_submit hd hi

/-! ### CONFIG (R62) -/

theorem cfgwEvent_eq (r : RegSel) {x : Nat} (hx : x < 2 ^ 16) :
    cfgwEvent r x = some [.command (hostWord 1#4 r.code (BitVec.ofNat 16 x)) []] := if_pos hx

theorem expand_config {k f n t : Nat} (hk : k < 2 ^ 16) (hf : f < 2 ^ 16) (hn : n < 2 ^ 16) (ht : t < 2 ^ 16) :
    AsmLine.expand (.config k f n t) = some [
      .command (hostWord 1#4 RegSel.metricKind.code (BitVec.ofNat 16 k)) [],
      .command (hostWord 1#4 RegSel.fieldsPerHop.code (BitVec.ofNat 16 f)) [],
      .command (hostWord 1#4 RegSel.numTransits.code (BitVec.ofNat 16 n)) [],
      .command (hostWord 1#4 RegSel.diagTrace.code (BitVec.ofNat 16 t)) []] := by
  simp only [AsmLine.expand, cfgwEvent_eq _ hk, cfgwEvent_eq _ hf, cfgwEvent_eq _ hn, cfgwEvent_eq _ ht,
    List.cons_append, List.nil_append]

/-- The state after a CFGW that was taken: the configuration `c`, and the rest of the script. -/
def State.configured (s : State) (c : CfgRegs) (rest : List ScriptEvent) : State :=
  { s with cfg := c, env := { s.env with script := rest, byteChannel := [] } }

/-- A run whose first step takes a CFGW with a value that its register accepts. -/
theorem run_cfgw {s : State} {r : RegSel} {x : BitVec 16} {rest : List ScriptEvent} {c : CfgRegs} {m : Nat}
    (hseq : s.seq.toNat < 12) (hh : s.env.held = none) (hs : s.env.script = .command (hostWord 1#4 r.code x) [] :: rest)
    (hc : writeReg s.cfg x r = .ok c) :
    Sys2Proof.core.run (m + 1) s = Sys2Proof.core.run m (s.configured c rest) := by
  refine run_next ?_ m
  rw [step_command hseq hh hs (Laws.RoundTrip.cfgw r x rfl)]
  simp only [exec, execCfgw, hc, State.configured]

theorem toNat_ofNat_lt {v x m : Nat} (h : x < m) : (BitVec.ofNat v x).toNat < m :=
  (Nat.mod_le x (2 ^ v)).trans_lt h

section
variable (c : CfgRegs) {x : Nat}

theorem writeReg_metricKind (h : x < 2 ^ 1) :
    writeReg c (BitVec.ofNat 16 x) .metricKind = .ok { c with kind := BitVec.ofNat 1 x, wKind := true } := by
  rw [writeReg, if_pos (toNat_ofNat_lt h), BitVec.setWidth_ofNat_of_le (by decide)]

theorem writeReg_fieldsPerHop (h : x < 2 ^ 8) :
    writeReg c (BitVec.ofNat 16 x) .fieldsPerHop = .ok { c with fph := BitVec.ofNat 8 x, wFph := true } := by
  rw [writeReg, if_pos (toNat_ofNat_lt h), BitVec.setWidth_ofNat_of_le (by decide)]

theorem writeReg_numTransits (h : x < 2 ^ 8) :
    writeReg c (BitVec.ofNat 16 x) .numTransits = .ok { c with nt := BitVec.ofNat 8 x, wNt := true } := by
  rw [writeReg, if_pos (toNat_ofNat_lt h), BitVec.setWidth_ofNat_of_le (by decide)]

theorem writeReg_diagTrace (h : x < 2 ^ 1) :
    writeReg c (BitVec.ofNat 16 x) .diagTrace = .ok { c with trace := BitVec.ofNat 1 x, wTrace := true } := by
  rw [writeReg, if_pos (toNat_ofNat_lt h), BitVec.setWidth_ofNat_of_le (by decide)]

end

/-- Settles O57: one step per word, in the order of R62. -/
theorem configWritesAllFourRegisters : Obligations.ConfigWritesAllFourRegisters := by
  refine ⟨fun k f n t hk hf hn ht => expand_config hk hf hn ht, ?_⟩
  intro s k f n t script hk hf hn ht hh hseq hexp hs
  rw [expand_config (by omega) (by omega) (by omega) (by omega), Option.some.injEq] at hexp
  subst hexp
  calc Sys2Proof.core.run 4 s
    _ = Sys2Proof.core.run 3 _ := run_cfgw hseq hh hs (writeReg_metricKind _ hk)
    _ = Sys2Proof.core.run 2 _ := run_cfgw hseq hh rfl (writeReg_fieldsPerHop _ hf)
    _ = Sys2Proof.core.run 1 _ := run_cfgw hseq hh rfl (writeReg_numTransits _ hn)
    _ = Sys2Proof.core.run 0 _ := run_cfgw hseq hh rfl (writeReg_diagTrace _ ht)

end Sys2Proof.Machine
end

section
/-! PROOFS. The BitCursor's operations (`40_bitcursor.md` R63 to R66): a READ or SKIP whose bits are there moves POS past
them, one that passes the end underruns, and a READ's value and position stay in range. -/

namespace Sys2Proof.Machine

/-! ### READ and SKIP by the bound check (R63) -/

/-- The state a READ that fits leaves. -/
def State.afterRead (s : State) (w : Nat) : State :=
  (s.setPos (s.pos.toNat + w)).answer (.readValue w (BitVec.ofNat 48 (bitsAt s.buf s.pos.toNat w)))

section
variable {s : State} {w : Nat}

theorem exec_read_fits (hw : w ≤ 48) (h : s.pos.toNat + w ≤ s.streamLen) : exec (.read w) s = .next (s.afterRead w) := by
  simp only [exec, execRead, if_pos hw, readAt_fits h, State.afterRead]

theorem exec_read_short (hw : w ≤ 48) (h : s.streamLen < s.pos.toNat + w) :
    exec (.read w) s = .next (s.raiseUnderrun s.seq) := by
  simp only [exec, execRead, if_pos hw, readAt_short h]

theorem exec_skip_fits (hw : w ≤ 8191) (h : s.pos.toNat + w ≤ s.streamLen) :
    exec (.skip w) s = .next (s.setPos (s.pos.toNat + w)) := by
  simp only [exec, execSkip, if_pos hw, skipAt_fits h]

theorem exec_skip_short (hw : w ≤ 8191) (h : s.streamLen < s.pos.toNat + w) :
    exec (.skip w) s = .next (s.raiseUnderrun s.seq) := by
  simp only [exec, execSkip, if_pos hw, skipAt_short h]

end

/-- Everything a READ can do when it does not fault. -/
theorem exec_read_cases {s t : State} {w : Nat} (h : exec (.read w) s = .next t) :
    (s.pos.toNat + w ≤ s.streamLen ∧ t = s.afterRead w)
      ∨ (s.streamLen < s.pos.toNat + w ∧ t = s.raiseUnderrun s.seq) := by
  by_cases hw : w ≤ 48
  · rcases Nat.lt_or_ge s.streamLen (s.pos.toNat + w) with hlt | hfit
    · cases h.symm.trans (exec_read_short hw hlt); exact .inr ⟨hlt, rfl⟩
    · cases h.symm.trans (exec_read_fits hw hfit); exact .inl ⟨hfit, rfl⟩
  · simp only [exec, execRead, if_neg hw] at h
    cases h

@[simp] theorem State.setPos_self (s : State) : s.setPos s.pos.toNat = s := by
  rw [State.setPos, BitVec.ofNat_toNat, BitVec.setWidth_eq]

/-- A READ of width 0 only answers 0. -/
theorem State.afterRead_zero (s : State) : s.afterRead 0 = s.answer (.readValue 0 0#48) := by
  simp only [State.afterRead, Nat.add_zero, State.setPos_self, bitsAt]

/-! ### The obligations -/

/-- Settles O12, by the two outcomes of a READ: one that fits ends inside the stretch that was checked and answers a field
of w bits, an underrun keeps POS and answers nothing. -/
theorem readValueInRangeAndPositionInBuffer : Obligations.ReadValueInRangeAndPositionInBuffer := by
  intro s t w hpos h
  rcases exec_read_cases h with ⟨hfit, rfl⟩ | ⟨-, rfl⟩
  · refine ⟨Nat.le_of_lt_succ (toNat_ofNat_lt (Nat.lt_succ_of_le hfit)), fun v hv => ?_⟩
    simp only [State.afterRead, State.answer_env, State.setPos_env, List.append_cancel_left_eq, List.cons.injEq,
      Answer.readValue.injEq, true_and, and_true] at hv
    exact hv ▸ toNat_ofNat_lt (bitsAt_lt s.buf s.pos.toNat w)
  · exact ⟨hpos, fun _ hv => absurd (List.self_eq_append_right.mp hv) (List.cons_ne_nil _ _)⟩

/-- Settles O9: the bits are there, and a field of width 0 is 0. -/
theorem readReturnsBitsAtPosition : Obligations.ReadReturnsBitsAtPosition := by
  refine ⟨fun s w hw hfit => exec_read_fits hw hfit, fun s hpos => ?_⟩
  rw [exec_read_fits (Nat.zero_le 48) hpos, State.afterRead_zero]
  rfl

/-- Settles O10, by the two sides of the bound check; a SKIP of width 0 stores POS as it is. -/
theorem skipMovesPositionOnly : Obligations.SkipMovesPositionOnly := by
  refine ⟨fun w => rfl, fun s w hw hfit => exec_skip_fits hw hfit, fun s hpos => ?_,
    fun s w hw hshort => exec_skip_short hw hshort⟩
  rw [exec_skip_fits (Nat.zero_le 8191) hpos, Nat.add_zero, State.setPos_self]

/-- Settles O11, by the two sides of the bound check for both operations. -/
theorem cursorChecksBoundFirst : Obligations.CursorChecksBoundFirst := fun _ _ =>
  ⟨fun hshort => ⟨fun hw => exec_read_short hw hshort, fun hw => exec_skip_short hw hshort⟩,
    fun hfit => ⟨fun hw => ⟨_, exec_read_fits hw hfit, rfl⟩, fun hw => ⟨_, exec_skip_fits hw hfit, rfl⟩⟩⟩

end Sys2Proof.Machine
end

section
/-! PROOFS. The six header decoders (`41_headers.md` R73 to R78): the span that fits is read by the offset table of R47 to
R52, the one that does not underruns in the decoder's own stage. -/

namespace Sys2Proof.Machine

/-- An outcome chosen by the span check, read as the two sides of the check (R70). -/
theorem spanCheck_sides {s t : State} {n : Nat} {c : BitVec 4} {o : Host.Outcome State Fault Refusal}
    (h : o = .next (if s.pos.toNat + n ≤ s.streamLen then t else s.raiseUnderrun c)) :
    (s.pos.toNat + n ≤ s.streamLen → o = .next t) ∧ (s.streamLen < s.pos.toNat + n → o = .next (s.raiseUnderrun c)) :=
  ⟨fun hfit => by rw [h, if_pos hfit], fun hshort => by rw [h, if_neg (Nat.not_le.mpr hshort)]⟩

/-- Settles O17: the next state of DEC_REPORT is `State.afterReport`. -/
theorem decReportReadsItsFieldsOrUnderruns : Obligations.DecReportReadsItsFieldsOrUnderruns :=
  ⟨rfl, fun s => spanCheck_sides (execDecReport_eq s)⟩

/-- Settles O18: the next state of DEC_ETH is `State.afterEth`. -/
theorem decEthReadsItsFieldsOrUnderruns : Obligations.DecEthReadsItsFieldsOrUnderruns :=
  ⟨rfl, fun s => spanCheck_sides (execDecEth_eq s)⟩

/-- Settles O19: the next state of DEC_IPV4 is `State.afterIpv4`. -/
theorem decIpv4ReadsItsFieldsOrUnderruns : Obligations.DecIpv4ReadsItsFieldsOrUnderruns :=
  ⟨rfl, fun s => spanCheck_sides (execDecIpv4_eq s)⟩

/-- Settles O20: the next state of DEC_UDP is `State.afterUdp`. -/
theorem decUdpReadsItsFieldsOrUnderruns : Obligations.DecUdpReadsItsFieldsOrUnderruns :=
  ⟨rfl, fun s => spanCheck_sides (execDecUdp_eq s)⟩

/-- Settles O21: the next state of DEC_SHIM is `State.afterShim`. -/
theorem decShimReadsItsFieldsOrUnderruns : Obligations.DecShimReadsItsFieldsOrUnderruns :=
  ⟨rfl, fun s => spanCheck_sides (execDecShim_eq s)⟩

/-- The two successors of DEC_INTMETA differ in RESULT and STATE only (R78). -/
theorem State.afterIntmeta_eq (s : State) : s.afterIntmeta = { s.withIntmeta with
    result := if s.job.nt = 0#8 then ResultCode.done else s.result
    seq := if s.job.nt = 0#8 then Stage.done else Stage.hop } := by
  unfold State.afterIntmeta
  split <;> rfl

/-- Settles O22: both successors of DEC_INTMETA are `State.withIntmeta` but for RESULT and STATE. -/
theorem decIntmetaReadsItsFieldsOrUnderruns : Obligations.DecIntmetaReadsItsFieldsOrUnderruns := by
  refine ⟨rfl, fun s => spanCheck_sides ?_⟩
  exact s.afterIntmeta_eq ▸ execDecIntmeta_eq s

end Sys2Proof.Machine
end

section
/-! PROOFS. The per-hop record decoder (`42_perhop.md` R79, R80): a job SUBMIT takes has its whole stride checked; a stride
shorter than the eleven fields, which no run reaches, stops by name once the fields are read. -/

namespace Sys2Proof.Machine

/-! ### A stride shorter than the fields (log 12) -/

section
variable {s : State}

/-- READs that do not fit underrun, whatever span was checked before them. -/
theorem decodeSpan_fieldsShort {span : Nat} {ws : List Nat} (h : s.streamLen < s.pos.toNat + ws.sum) :
    decodeSpan s span ws = none := by
  by_cases hspan : s.pos.toNat + span ≤ s.streamLen
  · rw [decodeSpan, if_neg (Nat.not_lt.mpr hspan)]
    exact readFields_short ws _ h (Nat.le_of_add_right_le hspan)
  · exact decodeSpan_short (Nat.not_le.mp hspan)

/-- READs that fit give their fields, also where the span checked before them was shorter. -/
theorem decodeSpan_shortSpan {span : Nat} {ws : List Nat} (hspan : span ≤ ws.sum)
    (h : s.pos.toNat + ws.sum ≤ s.streamLen) :
    decodeSpan s span ws = some (fieldValues s.buf s.pos.toNat ws, s.pos.toNat + ws.sum) := by
  rw [decodeSpan, if_neg (Nat.not_lt.mpr ((Nat.add_le_add_left hspan _).trans h))]
  exact readFields_fits ws _ h

/-- With a stride shorter than its fields, DEC_HOP either underruns in a READ or is left with a SKIP of negative width. -/
theorem execDecHop_shortStride (hf : s.hopStride < Config.hopFieldBits) : execDecHop s =
    if s.pos.toNat + Config.hopFieldBits ≤ s.streamLen then .fault .illegalCursorRequest
    else .next (s.raiseUnderrun Stage.hop) := by
  have hsum : hopWidths.sum = Config.hopFieldBits := rfl
  unfold execDecHop decodeRecord
  by_cases h : s.pos.toNat + Config.hopFieldBits ≤ s.streamLen
  · rw [decodeSpan_shortSpan (ws := hopWidths) hf.le h, if_pos h]
    simp only [if_pos hf]
  · rw [decodeSpan_fieldsShort (ws := hopWidths) (Nat.not_le.mp h), if_neg h]

end

/-! ### The obligations -/

/-- Settles O23: the next state of DEC_HOP is `State.afterHop`. -/
theorem decHopReadsOneRecordOrUnderruns : Obligations.DecHopReadsOneRecordOrUnderruns :=
  ⟨rfl, fun s hfph => spanCheck_sides (execDecHop_eq s hfph)⟩

/-- Settles O24, by the two sides of the check on the 256 field bits. -/
theorem decHopWithShortStrideFaults : Obligations.DecHopWithShortStrideFaults := by
  intro s hfph
  have hf : s.hopStride < Config.hopFieldBits := Nat.mul_lt_mul_of_pos_left hfph (by decide)
  exact ⟨fun hfit => (execDecHop_shortStride hf).trans (if_pos hfit),
    fun hshort => (execDecHop_shortStride hf).trans (if_neg (Nat.not_le.mpr hshort))⟩

end Sys2Proof.Machine
end

section
/-! PROOFS. The switch demultiplexer (`43_demux.md` R84 to R86, R90): the routing map, the sample, ROUTE's three outcomes,
and the trace event that precedes a record's sink event. -/

namespace Sys2Proof.Machine

/-! ### The routing map (R84) and the sample (R85) -/

theorem sinkOf_eq_some_iff {sid : BitVec 32} {k : SinkId} : sinkOf sid = some k ↔ sid = k.switchId := by
  constructor
  · intro h
    unfold sinkOf at h
    split_ifs at h <;> cases h <;> assumption
  · rintro rfl
    cases k <;> rfl

theorem sinkOf_eq_none_iff {sid : BitVec 32} :
    sinkOf sid = none ↔ sid ≠ 1#32 ∧ sid ≠ 2#32 ∧ sid ≠ 3#32 ∧ sid ≠ 4#32 := by
  rw [Option.eq_none_iff_forall_ne_some]
  simp only [ne_eq, sinkOf_eq_some_iff]
  constructor
  · exact fun h => ⟨h .sink1, h .sink2, h .sink3, h .sink4⟩
  · rintro ⟨h1, h2, h3, h4⟩ (_ | _ | _ | _)
    exacts [h1, h2, h3, h4]

/-- Settles O25: the map from switch ids to sinks inverts `SinkId.switchId`. -/
theorem routingMapIsTheFixedOne : Obligations.RoutingMapIsTheFixedOne :=
  ⟨fun _ _ => sinkOf_eq_some_iff, fun _ => sinkOf_eq_none_iff, rfl⟩

theorem sampleValue_latency (r : HopRecord) : sampleValue 0#1 r = r.hop_latency := if_pos rfl

theorem sampleValue_occupancy (r : HopRecord) : sampleValue 1#1 r = r.q_occupancy.setWidth 32 := if_neg (by decide)

theorem sampleValue_occupancy_toNat (r : HopRecord) : (sampleValue 1#1 r).toNat = r.q_occupancy.toNat := by
  rw [sampleValue_occupancy, BitVec.toNat_setWidth_of_le (by decide)]

/-- Settles O27: the two values of the sample, and ROUTE commutes with a change of the configuration registers. -/
theorem sampleValueFollowsKind : Obligations.SampleValueFollowsKind := by
  intro r
  have hv := sampleValue_occupancy_toNat r
  refine ⟨sampleValue_latency r, sampleValue_occupancy r, hv, hv ▸ r.q_occupancy.isLt, fun s t c h => ?_⟩
  exact (execRoute_withCfg s c).trans (congrArg (withCfg c) h)

/-! ### ROUTE's outcomes (R86) -/

/-- The state after a record that is not a failure, field by field. -/
theorem State.advanceHop_eq (s : State) : s.advanceHop = { s with
    hopIdx := s.hopIdx + 1
    result := if decide (s.hopIdx.toNat + 1 = s.job.nt.toNat) then ResultCode.done else s.result
    seq := if decide (s.hopIdx.toNat + 1 = s.job.nt.toNat) then Stage.done else Stage.hop } := by
  have hi : BitVec.ofNat 8 (s.hopIdx.toNat + 1) = s.hopIdx + 1 := by
    rw [BitVec.ofNat_add, BitVec.ofNat_toNat, BitVec.setWidth_eq]; rfl
  unfold State.advanceHop
  by_cases hl : s.hopIdx.toNat + 1 = s.job.nt.toNat
  · simp only [if_pos hl, decide_eq_true hl, hi]; rfl
  · simp only [if_neg hl, decide_eq_false hl, hi]; rfl

theorem execRoute_drop {s : State} (h : sinkOf s.hdr.hop.switch_id = none) : execRoute s = .next s.advanceHop := by
  rw [execRoute_eq, h]

theorem execRoute_sink {s : State} {k : SinkId} (h : sinkOf s.hdr.hop.switch_id = some k) : execRoute s =
    if s.sinkReply = .fail then .next (s.emitSink k (sampleValue s.job.kind s.hdr.hop)).raiseSinkFailure
    else .next (s.emitSink k (sampleValue s.job.kind s.hdr.hop)).advanceHop := by
  rw [execRoute_eq, h]

theorem State.emitSink_eq {s : State} {a : SinkAnswer} (h : s.sinkReply = a) (k : SinkId) (v : BitVec 32) :
    s.emitSink k v = { s with sinkLog := s.sinkLog ++ [⟨k, v, a⟩], env := s.env.takeSinkReply } := by
  subst h; rfl

/-- Settles O26: the drop, and the sink's two answers. -/
theorem routeHandsOverOrDrops : Obligations.RouteHandsOverOrDrops := by
  refine ⟨rfl, fun s _ => ⟨fun hk => ?drop, fun k hk ha => ?ok, fun k hk ha => ?fail⟩⟩
  case drop => exact (execRoute_drop hk).trans (congrArg _ s.advanceHop_eq)
  case ok =>
    have hne : s.sinkReply ≠ .fail := by rw [ha]; decide
    refine (execRoute_sink hk).trans ((if_neg hne).trans ?_)
    rw [State.advanceHop_eq, State.emitSink_eq ha]; rfl
  case fail =>
    refine (execRoute_sink hk).trans ((if_pos ha).trans ?_)
    rw [State.emitSink_eq ha]; rfl

/-! ### A record's trace event precedes its sink event (R90, `70_reset_and_hazards.md` R126) -/

theorem RecordTraced.of_seq_ne {s : State} (h : s.seq ≠ Stage.route) : RecordTraced s := fun hs => absurd hs h

/-- A decoder that does not go to ROUTE leaves no record waiting there; nor does an underrun. -/
theorem RecordTraced.decode {s t u : State} {p : Prop} [Decidable p] {c : BitVec 4}
    (h : (Host.Outcome.next (if p then u else s.raiseUnderrun c) : Host.Outcome State Fault Refusal) = .next t)
    (hu : u.seq ≠ Stage.route) : RecordTraced t := by
  cases h
  split
  · exact .of_seq_ne hu
  · exact .of_seq_ne (show Stage.underrun ≠ Stage.route by decide)

/-- The record that goes to ROUTE has just been traced. -/
theorem RecordTraced.record (s : State) (r : HopRecord) (p : Nat) :
    RecordTraced ((((s.setHop r).setPos p).trace (.hop s.hopIdx r)).goto Stage.route) := by
  intro _ (hb : s.job.trace = 1#1)
  simp [hb]

theorem execDecHop_recordTraced {s t : State} (h : execDecHop s = .next t) : RecordTraced t := by
  unfold execDecHop at h
  split at h <;> cases h
  · exact .of_seq_ne (show Stage.underrun ≠ Stage.route by decide)
  · exact .record s _ _

theorem State.afterIntmeta_seq_ne_route (s : State) : s.afterIntmeta.seq ≠ Stage.route := by
  rw [State.afterIntmeta_eq]
  dsimp only
  split <;> decide

theorem State.advanceHop_seq_ne_route (s : State) : s.advanceHop.seq ≠ Stage.route := by
  rw [State.advanceHop_seq]
  split <;> decide

theorem execRoute_recordTraced {s t : State} (h : execRoute s = .next t) : RecordTraced t := by
  rw [execRoute_eq] at h
  split at h
  · cases h; exact .of_seq_ne (State.advanceHop_seq_ne_route _)
  · split at h <;> cases h
    · exact .of_seq_ne (show Stage.fatal ≠ Stage.route by decide)
    · exact .of_seq_ne (State.advanceHop_seq_ne_route _)

/-- Only DEC_HOP goes to ROUTE; an operation that stays there writes nothing that the property reads. -/
theorem exec_keeps_recordTraced {i : Instr} {s t : State} (h : RecordTraced s) (ht : exec i s = .next t) :
    RecordTraced t := by
  cases exec_effect ht with
  | environment | read | skip | cfgw => exact h
  | underrun | startJob => exact .of_seq_ne (by simp)
  | route => exact execRoute_recordTraced ht
  | decode hw =>
    cases hw with
    | report => exact .decode ((execDecReport_eq s).symm.trans ht) (show Stage.eth ≠ Stage.route by decide)
    | eth => exact .decode ((execDecEth_eq s).symm.trans ht) (show Stage.ipv4 ≠ Stage.route by decide)
    | ipv4 => exact .decode ((execDecIpv4_eq s).symm.trans ht) (show Stage.udp ≠ Stage.route by decide)
    | udp => exact .decode ((execDecUdp_eq s).symm.trans ht) (show Stage.shim ≠ Stage.route by decide)
    | shim => exact .decode ((execDecShim_eq s).symm.trans ht) (show Stage.intmeta ≠ Stage.route by decide)
    | intmeta => exact .decode ((execDecIntmeta_eq s).symm.trans ht) s.afterIntmeta_seq_ne_route
    | hop => exact execDecHop_recordTraced ht

/-- Settles O47: reset leaves ROUTE, and every operation keeps the property. -/
theorem recordIsTracedBeforeItIsRouted : Obligations.RecordIsTracedBeforeItIsRouted := by
  refine ⟨.of_seq_ne (by decide), fun s t h ht => ?_⟩
  rcases step_cases ht with ⟨rest, -, rfl⟩ | ⟨i, e, -, he, -⟩ | ⟨e, -, rfl⟩
  · exact .of_seq_ne (show Stage.idle ≠ Stage.route by decide)
  · exact exec_keeps_recordTraced (s := { s with env := e }) h he
  · exact h

end Sys2Proof.Machine
end

section
/-! PROOFS. The trace never steers (`43_demux.md` R90): the core's step commutes with a change of the latched TRACE and of
the trace log, but for what it appends to that log. -/

namespace Sys2Proof.Machine

/-- The state with the latched TRACE `b` and the trace log `l`. -/
def State.withTrace (s : State) (b : BitVec 1) (l : List TraceEvent) : State :=
  { s with job := { s.job with trace := b }, traceLog := l }

/-- `t'` is `t` with the latched TRACE `b` and a trace log that is still `l` unless `b` is 1. -/
def TraceDiffers (b : BitVec 1) (l : List TraceEvent) (t t' : State) : Prop :=
  ∃ l', t' = t.withTrace b l' ∧ (b ≠ 1#1 → l' = l)

section
variable {b : BitVec 1} {l : List TraceEvent}

theorem TraceDiffers.withTrace (s : State) : TraceDiffers b l s (s.withTrace b l) := ⟨l, rfl, fun _ => rfl⟩

theorem TraceDiffers.trace {s s' : State} (h : s' = s.withTrace b l) (e : TraceEvent) :
    TraceDiffers b l (s.trace e) (s'.trace e) := by
  subst h
  exact ⟨if b = 1#1 then l ++ [e] else l, rfl, fun hb => if_neg hb⟩

theorem TraceDiffers.goto {t t' : State} (h : TraceDiffers b l t t') (c : BitVec 4) :
    TraceDiffers b l (t.goto c) (t'.goto c) := by
  obtain ⟨l', rfl, hl⟩ := h
  exact ⟨l', rfl, hl⟩

theorem TraceDiffers.finishJob {t t' : State} (h : TraceDiffers b l t t') :
    TraceDiffers b l t.finishJob t'.finishJob := by
  obtain ⟨l', rfl, hl⟩ := h
  exact ⟨l', rfl, hl⟩

theorem TraceDiffers.advanceHop {t t' : State} (h : TraceDiffers b l t t') :
    TraceDiffers b l t.advanceHop t'.advanceHop := by
  obtain ⟨l', rfl, hl⟩ := h
  refine ⟨l', ?_, hl⟩
  simp only [State.advanceHop_eq]; rfl

/-- The span check sees neither TRACE nor the trace log, so the decoder fits or underruns in both states alike. -/
theorem TraceDiffers.decode {s t u u' : State} {p : Prop} [Decidable p] {c : BitVec 4}
    (h : (Host.Outcome.next (if p then u else s.raiseUnderrun c) : Host.Outcome State Fault Refusal) = .next t)
    (hu : TraceDiffers b l u u') :
    TraceDiffers b l t (if p then u' else (s.withTrace b l).raiseUnderrun c) := by
  cases h
  split
  · exact hu
  · exact TraceDiffers.withTrace (s.raiseUnderrun c)

theorem State.afterIntmeta_traceDiffers (s : State) :
    TraceDiffers b l s.afterIntmeta (s.withTrace b l).afterIntmeta := by
  have h : TraceDiffers b l s.withIntmeta (s.withTrace b l).withIntmeta := .trace rfl _
  have hn : (s.withTrace b l).job.nt = s.job.nt := rfl
  unfold State.afterIntmeta
  rw [hn]
  split
  · exact h.finishJob
  · exact h.goto _

theorem execDecHop_traceDiffers {s t : State} (h : execDecHop s = .next t) :
    ∃ t', execDecHop (s.withTrace b l) = .next t' ∧ TraceDiffers b l t t' := by
  unfold execDecHop at h ⊢
  rw [decodeRecord_congr (s := s.withTrace b l) (t := s) rfl rfl rfl rfl]
  generalize decodeRecord s = o at h ⊢
  rcases o with _ | _ | ⟨vs, p⟩ <;> cases h
  · exact ⟨_, rfl, .withTrace (s.raiseUnderrun Stage.hop)⟩
  · exact ⟨_, rfl, (TraceDiffers.trace rfl _).goto _⟩

theorem execRoute_traceDiffers {s t : State} (h : execRoute s = .next t) :
    ∃ t', execRoute (s.withTrace b l) = .next t' ∧ TraceDiffers b l t t' := by
  cases hk : sinkOf s.hdr.hop.switch_id with
  | none =>
    cases (execRoute_drop hk).symm.trans h
    exact ⟨_, execRoute_drop (s := s.withTrace b l) hk, (TraceDiffers.withTrace s).advanceHop⟩
  | some k =>
    have hw := TraceDiffers.withTrace (b := b) (l := l) (s.emitSink k (sampleValue s.job.kind s.hdr.hop))
    have hb := execRoute_sink (s := s.withTrace b l) hk
    have h := (execRoute_sink hk).symm.trans h
    by_cases ha : s.sinkReply = .fail
    · cases (if_pos ha).symm.trans h
      exact ⟨_, hb.trans (if_pos ha), .withTrace (State.raiseSinkFailure _)⟩
    · cases (if_neg ha).symm.trans h
      exact ⟨_, hb.trans (if_neg ha), hw.advanceHop⟩

theorem coreStep_traceDiffers {s t : State} (h : coreStep s = .next t) :
    ∃ t', coreStep (s.withTrace b l) = .next t' ∧ TraceDiffers b l t t' := by
  have hseq : (s.withTrace b l).seq = s.seq := rfl
  unfold coreStep at h ⊢
  rw [hseq]
  split at h
  · next i hi =>
    rcases decodeSequencer_ok hi with rfl | rfl | rfl | rfl | rfl | rfl | rfl | rfl <;> dsimp only [exec] at h ⊢
    · exact ⟨_, execDecReport_eq _, .decode ((execDecReport_eq s).symm.trans h) ((TraceDiffers.trace rfl _).goto _)⟩
    · exact ⟨_, execDecEth_eq _, .decode ((execDecEth_eq s).symm.trans h) ((TraceDiffers.trace rfl _).goto _)⟩
    · exact ⟨_, execDecIpv4_eq _, .decode ((execDecIpv4_eq s).symm.trans h) ((TraceDiffers.trace rfl _).goto _)⟩
    · exact ⟨_, execDecUdp_eq _, .decode ((execDecUdp_eq s).symm.trans h) ((TraceDiffers.trace rfl _).goto _)⟩
    · exact ⟨_, execDecShim_eq _, .decode ((execDecShim_eq s).symm.trans h) ((TraceDiffers.trace rfl _).goto _)⟩
    · exact ⟨_, execDecIntmeta_eq _, .decode ((execDecIntmeta_eq s).symm.trans h) s.afterIntmeta_traceDiffers⟩
    · exact execDecHop_traceDiffers h
    · exact execRoute_traceDiffers h
  · cases h; exact ⟨_, rfl, .withTrace s⟩
  · cases h

end

/-- Settles O51: the core's step commutes with a change of TRACE and of the trace log. -/
theorem tracingNeverSteers : Obligations.TracingNeverSteers := by
  intro s t b l h
  obtain ⟨t', ht, l', rfl, hl⟩ := coreStep_traceDiffers (b := b) (l := l) h
  exact ⟨l', ht, hl⟩

end Sys2Proof.Machine
end

section
/-! PROOFS. Every valid header register holds the fields at its place in the payload (`20_memory.md` R36, `30_encoding.md`
R54): each decoder reads where the invariant puts POS, and nothing else writes a register that stays valid. -/

namespace Sys2Proof.Machine

/-! ### The record that HDR_HOP holds -/

theorem State.lastRecord_congr {s t : State} (hr : t.reached = s.reached) (hi : t.hopIdx = s.hopIdx) :
    t.lastRecord = s.lastRecord := by
  rw [State.lastRecord, State.lastRecord, hr, hi]

/-- A header decoder leaves the last record: it neither comes from ROUTE nor goes there. -/
theorem Decoded.lastRecord {s t : State} (hd : Decoded s t) (h6 : s.seq.toNat ≤ 6) : t.lastRecord = s.lastRecord := by
  have hnext := hd.next_or_done
  have hs : s.reached ≠ 8 := by rw [State.reached_eq_seq (by omega)]; omega
  have ht : t.reached ≠ 8 := by rw [State.reached_eq_seq (by omega)]; omega
  rw [State.lastRecord, State.lastRecord, if_neg hs, if_neg ht, hd.hopIdx]

theorem State.lastRecord_route {s : State} (hs : s.seq = Stage.route) : s.lastRecord = s.hopIdx.toNat :=
  if_pos ((State.reached_eq_seq (by rw [hs]; decide)).trans (congrArg BitVec.toNat hs))

/-- The record just routed is the one before the new HOP_IDX. -/
theorem State.lastRecord_advanceHop {s : State} (hs : s.seq = Stage.route)
    (hi : s.advanceHop.hopIdx.toNat = s.hopIdx.toNat + 1) : s.advanceHop.lastRecord = s.lastRecord := by
  have ht : s.advanceHop.reached ≠ 8 := by
    rcases s.advanceHop_done_or_next with ⟨e, -, -⟩ | ⟨e, -, -⟩ <;>
      rw [State.reached_eq_seq (by rw [e]; decide), e] <;> decide
  rw [State.lastRecord_route hs, State.lastRecord, if_neg ht, hi, Nat.add_sub_cancel]

/-! ### What keeps the registers equal to the payload -/

/-- The property reads the header registers, BUF, the stride and the last record. -/
theorem HeadersMatchPayload.congr {s t : State} (h : HeadersMatchPayload s) (hh : t.hdr = s.hdr) (hb : t.buf = s.buf)
    (hj : t.job = s.job) (hl : t.lastRecord = s.lastRecord) : HeadersMatchPayload t := by
  obtain ⟨report, eth, ipv4, udp, shim, intmeta, hop⟩ := h
  constructor <;> rw [hh, hb]
  case hop => rwa [hj, hl]
  all_goals assumption

/-- With every valid bit 0 there is nothing to hold. -/
theorem HeadersMatchPayload.of_invalid {s : State} (h : s.hdr = s.hdr.invalidate) : HeadersMatchPayload s := by
  constructor <;> rw [h] <;> exact fun hv => absurd hv Bool.false_ne_true

/-- An abort records the stage it comes from. -/
theorem HeadersMatchPayload.abort {s t : State} (h : HeadersMatchPayload s) (h9 : s.seq.toNat ≤ 9)
    (ht : t.seq = Stage.underrun ∨ t.seq = Stage.fatal) (he : t.errStage = s.seq) (hh : t.hdr = s.hdr)
    (hb : t.buf = s.buf) (hj : t.job = s.job) (hi : t.hopIdx = s.hopIdx) : HeadersMatchPayload t :=
  h.congr hh hb hj (State.lastRecord_congr (by rw [State.reached_abort ht, he, State.reached_eq_seq h9]) hi)

/-! ### The decoders -/

section
variable {s : State} (h : HeadersMatchPayload s)
include h

theorem HeadersMatchPayload.afterReport (hc : s.seq = Stage.report) (hp : s.pos.toNat = 0) :
    HeadersMatchPayload s.afterReport := by
  have hl : s.afterReport.lastRecord = s.lastRecord := (decoded_afterReport hc).lastRecord (by rw [hc]; decide)
  exact ⟨fun _ => congrArg (ReportHdr.readFrom s.buf) hp, h.eth, h.ipv4, h.udp, h.shim, h.intmeta, hl ▸ h.hop⟩

theorem HeadersMatchPayload.afterEth (hc : s.seq = Stage.eth) (hp : s.pos.toNat = 128) :
    HeadersMatchPayload s.afterEth := by
  have hl : s.afterEth.lastRecord = s.lastRecord := (decoded_afterEth hc).lastRecord (by rw [hc]; decide)
  exact ⟨h.report, fun _ => congrArg (EthHdr.readFrom s.buf) hp, h.ipv4, h.udp, h.shim, h.intmeta, hl ▸ h.hop⟩

theorem HeadersMatchPayload.afterIpv4 (hc : s.seq = Stage.ipv4) (hp : s.pos.toNat = 240) :
    HeadersMatchPayload s.afterIpv4 := by
  have hl : s.afterIpv4.lastRecord = s.lastRecord := (decoded_afterIpv4 hc).lastRecord (by rw [hc]; decide)
  exact ⟨h.report, h.eth, fun _ => congrArg (Ipv4Hdr.readFrom s.buf) hp, h.udp, h.shim, h.intmeta, hl ▸ h.hop⟩

theorem HeadersMatchPayload.afterUdp (hc : s.seq = Stage.udp) (hp : s.pos.toNat = 400) :
    HeadersMatchPayload s.afterUdp := by
  have hl : s.afterUdp.lastRecord = s.lastRecord := (decoded_afterUdp hc).lastRecord (by rw [hc]; decide)
  exact ⟨h.report, h.eth, h.ipv4, fun _ => congrArg (UdpHdr.readFrom s.buf) hp, h.shim, h.intmeta, hl ▸ h.hop⟩

theorem HeadersMatchPayload.afterShim (hc : s.seq = Stage.shim) (hp : s.pos.toNat = 464) :
    HeadersMatchPayload s.afterShim := by
  have hl : s.afterShim.lastRecord = s.lastRecord := (decoded_afterShim hc).lastRecord (by rw [hc]; decide)
  exact ⟨h.report, h.eth, h.ipv4, h.udp, fun _ => congrArg (ShimHdr.readFrom s.buf) hp, h.intmeta, hl ▸ h.hop⟩

theorem HeadersMatchPayload.afterIntmeta (hc : s.seq = Stage.intmeta) (hp : s.pos.toNat = 496) :
    HeadersMatchPayload s.afterIntmeta := by
  have hl : s.afterIntmeta.lastRecord = s.lastRecord := (decoded_afterIntmeta hc).lastRecord (by rw [hc]; decide)
  rw [State.afterIntmeta_eq] at hl ⊢
  exact ⟨h.report, h.eth, h.ipv4, h.udp, h.shim, fun _ => congrArg (IntmetaHdr.readFrom s.buf) hp, hl ▸ h.hop⟩

theorem HeadersMatchPayload.afterHop (hp : s.pos.toNat = 560 + 32 * s.job.fph.toNat * s.hopIdx.toNat) :
    HeadersMatchPayload s.afterHop := by
  have hl : s.afterHop.lastRecord = s.hopIdx.toNat := State.lastRecord_route (s := s.afterHop) rfl
  refine ⟨h.report, h.eth, h.ipv4, h.udp, h.shim, h.intmeta, fun _ => ?_⟩
  rw [hl]
  exact congrArg (HopRecord.readFrom s.buf) hp

/-- A decoder fits, or underruns in its own stage. -/
theorem HeadersMatchPayload.decode {u t : State} {p : Prop} [Decidable p] {c : BitVec 4} (hc : s.seq = c)
    (h9 : c.toNat ≤ 9) (hu : HeadersMatchPayload u)
    (ht : (Host.Outcome.next (if p then u else s.raiseUnderrun c) : Host.Outcome State Fault Refusal) = .next t) :
    HeadersMatchPayload t := by
  cases ht
  split
  · exact hu
  · exact h.abort (hc ▸ h9) (.inl rfl) hc.symm rfl rfl rfl rfl

end

/-! ### The agents -/

theorem HeadersMatchPayload.advanceHop {s : State} (hi : Inv s) (h : HeadersMatchPayload s) (hs : s.seq = Stage.route) :
    HeadersMatchPayload s.advanceHop := by
  have hr : s.reached = 8 := (State.reached_eq_seq (by rw [hs]; decide)).trans (congrArg BitVec.toNat hs)
  have hlt : s.hopIdx.toNat < s.job.nt.toNat := hi.hopIdx.record (.inr hr)
  have hn : s.advanceHop.hopIdx.toNat = s.hopIdx.toNat + 1 := by
    have hnt := s.job.nt.isLt
    rw [State.advanceHop_hopIdx]; exact Nat.mod_eq_of_lt (by omega)
  exact h.congr s.advanceHop_hdr s.advanceHop_buf s.advanceHop_job (State.lastRecord_advanceHop hs hn)

theorem execRoute_keeps_headers {s t : State} (hi : Inv s) (h : HeadersMatchPayload s) (hs : s.seq = Stage.route)
    (ht : execRoute s = .next t) : HeadersMatchPayload t := by
  rw [execRoute_eq] at ht
  split at ht
  · cases ht; exact .advanceHop hi h hs
  · next k _ =>
    have hk : HeadersMatchPayload (s.emitSink k (sampleValue s.job.kind s.hdr.hop)) := h.congr rfl rfl rfl rfl
    split at ht <;> cases ht
    · exact h.abort (by rw [hs]; decide) (.inr rfl) hs.symm rfl rfl rfl rfl
    · exact .advanceHop (hi.emitSink k _) hk hs

theorem coreStep_keeps_headers {s t : State} (hi : Inv s) (h : HeadersMatchPayload s) (ht : coreStep s = .next t) :
    HeadersMatchPayload t := by
  rcases coreStep_cases s with ⟨-, e⟩ | ⟨hc, e⟩ | ⟨hc, e⟩ | ⟨hc, e⟩ | ⟨hc, e⟩ | ⟨hc, e⟩ | ⟨hc, e⟩ | ⟨hc, e⟩ | ⟨hc, e⟩
    | ⟨-, e⟩ <;> rw [e] at ht
  · cases ht; exact h
  · exact h.decode hc (by decide) (h.afterReport hc (hi.pos.pos_of_running hc (by decide)))
      ((execDecReport_eq s).symm.trans ht)
  · exact h.decode hc (by decide) (h.afterEth hc (hi.pos.pos_of_running hc (by decide)))
      ((execDecEth_eq s).symm.trans ht)
  · exact h.decode hc (by decide) (h.afterIpv4 hc (hi.pos.pos_of_running hc (by decide)))
      ((execDecIpv4_eq s).symm.trans ht)
  · exact h.decode hc (by decide) (h.afterUdp hc (hi.pos.pos_of_running hc (by decide)))
      ((execDecUdp_eq s).symm.trans ht)
  · exact h.decode hc (by decide) (h.afterShim hc (hi.pos.pos_of_running hc (by decide)))
      ((execDecShim_eq s).symm.trans ht)
  · exact h.decode hc (by decide) (h.afterIntmeta hc (hi.pos.pos_of_running hc (by decide)))
      ((execDecIntmeta_eq s).symm.trans ht)
  · have hf : Config.fphMin ≤ s.job.fph.toNat := hi.fphMin (by rw [hc]; decide)
    exact h.decode hc (by decide) (h.afterHop (hi.pos.pos_of_running hc (by decide)))
      ((execDecHop_eq s hf).symm.trans ht)
  · exact execRoute_keeps_headers hi h hc ht
  · cases ht

theorem execSubmit_keeps_headers {s t : State} {n : Nat} (h : HeadersMatchPayload s) (ht : execSubmit n s = .next t) :
    HeadersMatchPayload t := by
  rcases execSubmit_cases ht with ⟨-, rfl⟩ | ⟨-, r, rfl⟩ | ⟨-, -, -, -, -, rfl⟩
  · exact h.congr rfl rfl rfl rfl
  · exact h.congr rfl rfl rfl rfl
  · exact .of_invalid rfl

/-- A host word is a SUBMIT, or changes the configuration and the environment only. -/
theorem commandStep_cases {s t : State} {w : Word} {bytes : List Byte} (h : commandStep w bytes s = .next t) :
    (∃ n, decodeHost w = .ok (.submit n) ∧ execSubmit n { s with env := { s.env with byteChannel := bytes } } = .next t)
    ∨ t = { s with cfg := t.cfg, env := t.env } := by
  have register : ∀ {i : Instr}, (∃ r x, i = .cfgw r x) ∨ (∃ r, i = .rdreg r) ∨ (∃ r, i = .rdhdr r) →
      exec i { s with env := { s.env with byteChannel := bytes } } = .next t → t = { s with cfg := t.cfg, env := t.env } := by
    intro i hi h
    obtain ⟨c, e, rfl, -⟩ := exec_registerCommand hi h
    rfl
  unfold commandStep at h
  split at h
  · next i hd =>
    rcases decodeHost_cases hd with hi | hi | ⟨n, rfl⟩ | hi
    · exact .inr (register (.inl hi) h)
    · exact .inr (register (.inr (.inl hi)) h)
    · exact .inl ⟨n, hd, h⟩
    · exact .inr (register (.inr (.inr hi)) h)
  · cases h; exact .inr rfl

theorem commandStep_keeps_headers {s t : State} {w : Word} {bytes : List Byte} (h : HeadersMatchPayload s)
    (ht : commandStep w bytes s = .next t) : HeadersMatchPayload t := by
  have hb : HeadersMatchPayload { s with env := { s.env with byteChannel := bytes } } := h.congr rfl rfl rfl rfl
  rcases commandStep_cases ht with ⟨n, -, hsubmit⟩ | hkeep
  · exact execSubmit_keeps_headers hb hsubmit
  · rw [hkeep]
    exact h.congr rfl rfl rfl rfl

/-- Settles O48, by the agent that acts: reset and a SUBMIT that is taken leave no register valid, a decoder reads its
register at the place where the invariant has POS, and the others write none. -/
theorem stepKeepsHeadersEqualToPayload : Obligations.StepKeepsHeadersEqualToPayload := by
  refine ⟨.of_invalid rfl, fun s t hi h ht => ?_⟩
  rcases step_agents ht with ⟨rest, -, rfl⟩ | ⟨l, hl, ht⟩ | ⟨w, bytes, rest, -, -, ht⟩ | ⟨x, -, -, ht⟩
    | ⟨q, rest, hs, -⟩
  · exact .of_invalid rfl
  · exact coreStep_keeps_headers (hi.withEnv (s.withScript l).env hl) (h.congr rfl rfl rfl rfl) ht
  · exact commandStep_keeps_headers (s := s.withScript rest) (h.congr rfl rfl rfl rfl) ht
  · exact execSubmit_keeps_headers (s := { s with env := { s.env with held := none, byteChannel := x.bytes } })
      (h.congr rfl rfl rfl rfl) ht
  · exact absurd hs (State.noDirectRequest_head hi.noDirect q rest)

end Sys2Proof.Machine
end

section
/-! PROOFS. The bit string of a header on RDHDR's port (`44_pipeline.md` R97, `30_encoding.md` R46 to R54) is the stretch of
the stream that the header was decoded from: each field is a stretch, and each begins where the one before it ends. -/

namespace Sys2Proof.Machine

/-- The n stream bits from position p on. -/
def streamBits (m : Memory) (p n : Nat) : List Bool := (List.range n).map fun i => streamBit m (p + i)

/-- A stretch goes on where the one before it ends. -/
theorem streamBits_append (m : Memory) {p q v : Nat} (h : q = p + v) (w : Nat) :
    streamBits m p v ++ streamBits m q w = streamBits m p (v + w) := by
  subst h
  simp only [streamBits, List.range_add, List.map_append, List.map_map, Function.comp_def, Nat.add_assoc]

/-- A field, most significant bit first, is the stretch it was read from (R54). -/
theorem bitsOf_fieldAt (m : Memory) (b o w : Nat) : bitsOf (fieldAt m b o w) = streamBits m (b + o) w := by
  refine List.map_congr_left fun j hj => ?_
  have hlt : j < w := List.mem_range.mp hj
  have hbit : decide (w - 1 - j < w) = true := decide_eq_true (by omega)
  rw [fieldAt, BitVec.getLsbD_ofNat, hbit, Bool.true_and, bitsAt_testBit m (b + o) w j hlt]

/-- Settles O35: the fields of each table are consecutive stretches. -/
theorem headerPortBitsAreTheStreamBits : Obligations.HeaderPortBitsAreTheStreamBits := by
  intro m b
  refine ⟨?report, ?eth, ?ipv4, ?udp, ?shim, ?intmeta, ?hop⟩
  case report =>
    simp (disch := omega) only [ReportHdr.bits, ReportHdr.readFrom, bitsOf_fieldAt, streamBits_append]; rfl
  case eth =>
    simp (disch := omega) only [EthHdr.bits, EthHdr.readFrom, bitsOf_fieldAt, streamBits_append]; rfl
  case ipv4 =>
    simp (disch := omega) only [Ipv4Hdr.bits, Ipv4Hdr.readFrom, bitsOf_fieldAt, streamBits_append]; rfl
  case udp =>
    simp (disch := omega) only [UdpHdr.bits, UdpHdr.readFrom, bitsOf_fieldAt, streamBits_append]; rfl
  case shim =>
    simp (disch := omega) only [ShimHdr.bits, ShimHdr.readFrom, bitsOf_fieldAt, streamBits_append]; rfl
  case intmeta =>
    simp (disch := omega) only [IntmetaHdr.bits, IntmetaHdr.readFrom, bitsOf_fieldAt, streamBits_append]; rfl
  case hop =>
    simp (disch := omega) only [HopRecord.bits, HopRecord.readFrom, bitsOf_fieldAt, streamBits_append]; rfl

end Sys2Proof.Machine
end

section
/-! PROOFS. The pipeline's steps (`44_pipeline.md` R91, R92): which operation a step runs, that no step stops from the
invariant, and that STATE moves only along the rows of the transition table. -/

namespace Sys2Proof.Machine

/-! ### No core step where a job has ended or not begun (R92) -/

/-- Settles O7: the four codes select no operation. -/
theorem terminalStatesHaveNoCoreStep : Obligations.TerminalStatesHaveNoCoreStep := by
  intro s hc
  have hd : decodeSequencer s.seq = .error .noOperation := by rcases hc with hc | hc | hc | hc <;> rw [hc] <;> rfl
  simp only [coreStep, hd]

/-! ### The selected operation (R92) -/

/-- Settles O5, by the agent: the core's turn, the core alone, the host, the BitCursor's port. -/
theorem stepRunsTheSelectedOperation : Obligations.StepRunsTheSelectedOperation := by
  refine ⟨fun s i rest hh hs hd => step_coreTurn hd hh hs, fun s i hh hs hd => ?_,
    fun s i w bytes rest hseq hh hs hd => step_command hseq hh hs hd,
    fun s i q rest hseq hh hs hd => step_cursorRequest hseq hh hs hd⟩
  rw [step_alone hs hh, coreStep, hd]

/-! ### From the invariant no step stops -/

theorem Inv.notReserved {s : State} (h : Inv s) : s.reserved = false :=
  s.reserved_eq_false.mpr (Nat.lt_succ_of_le h.status.legal)

theorem execRoute_next (s : State) : ∃ t, execRoute s = .next t := by
  rw [execRoute_eq]
  split
  · exact ⟨_, rfl⟩
  · split <;> exact ⟨_, rfl⟩

theorem coreStep_next {s : State} (h : Inv s) : ∃ t, coreStep s = .next t := by
  rcases coreStep_cases s with ⟨-, e⟩ | ⟨-, e⟩ | ⟨-, e⟩ | ⟨-, e⟩ | ⟨-, e⟩ | ⟨-, e⟩ | ⟨-, e⟩ | ⟨hc, e⟩ | ⟨-, e⟩
    | ⟨hc, -⟩
  · exact ⟨_, e⟩
  · exact ⟨_, e.trans (execDecReport_eq s)⟩
  · exact ⟨_, e.trans (execDecEth_eq s)⟩
  · exact ⟨_, e.trans (execDecIpv4_eq s)⟩
  · exact ⟨_, e.trans (execDecUdp_eq s)⟩
  · exact ⟨_, e.trans (execDecShim_eq s)⟩
  · exact ⟨_, e.trans (execDecIntmeta_eq s)⟩
  · exact ⟨_, e.trans (execDecHop_eq s (h.fphMin (by rw [hc]; decide)))⟩
  · exact e ▸ execRoute_next s
  · exact absurd h.status.legal (Nat.not_le.mpr hc)

/-- A register command is refused or done, in every STATE. -/
theorem exec_registerCommand_next {i : Instr} (s : State)
    (hi : (∃ r x, i = .cfgw r x) ∨ (∃ r, i = .rdreg r) ∨ (∃ r, i = .rdhdr r)) : ∃ t, exec i s = .next t := by
  rcases hi with ⟨r, x, rfl⟩ | ⟨r, rfl⟩ | ⟨r, rfl⟩
  · dsimp only [exec, execCfgw]; split <;> exact ⟨_, rfl⟩
  · dsimp only [exec, execRdreg]; split <;> exact ⟨_, rfl⟩
  · dsimp only [exec, execRdhdr]; split <;> exact ⟨_, rfl⟩

/-- A host word stops the machine in no STATE but a reserved one. -/
theorem commandStep_next {s : State} (h : s.reserved = false) (w : Word) (bytes : List Byte) :
    ∃ t, commandStep w bytes s = .next t := by
  unfold commandStep
  dsimp only
  split
  · next i hd =>
    rcases decodeHost_cases hd with hi | hi | ⟨n, rfl⟩ | hi
    · exact exec_registerCommand_next _ (.inl hi)
    · exact exec_registerCommand_next _ (.inr (.inl hi))
    · exact execSubmit_next _ n h
    · exact exec_registerCommand_next _ (.inr (.inr hi))
  · exact ⟨_, rfl⟩

theorem heldStep_next {s : State} (h : s.reserved = false) (x : HeldSubmit) : ∃ t, heldStep x s = .next t :=
  execSubmit_next _ x.len h

/-- The acting agent's action goes on: the core's turn by the invariant, the others outside the reserved codes. -/
theorem agentStep_next {s : State} (h : Inv s) : ∃ t, agentStep s = .next t := by
  have turn : ∀ {x : ScriptEvent} {rest}, s.env.script = x :: rest → ∃ t, coreStep (s.withScript rest) = .next t :=
    fun hs => coreStep_next (h.withEnv (s.withScript _).env (hs ▸ List.suffix_cons _ _))
  have held : ∀ x, ∃ t, heldStep x s = .next t := heldStep_next h.notReserved
  unfold agentStep
  split
  · exact ⟨_, rfl⟩
  · next hs _ => exact turn hs
  · next hs _ => exact absurd hs (State.noDirectRequest_head h.noDirect _ _)
  · next rest _ _ => exact commandStep_next (s := s.withScript rest) h.notReserved _ _
  · exact coreStep_next h
  · next hs _ => split; exacts [turn hs, held _]
  · next hs _ => exact absurd hs (State.noDirectRequest_head h.noDirect _ _)
  · split; exacts [coreStep_next h, held _]
  · split; exacts [coreStep_next h, held _]

/-- Settles O42: no STATE of the invariant is reserved, its FPH is legal, and no direct request is in the script. -/
theorem invariantStatesNeverStop : Obligations.InvariantStatesNeverStop := fun s h =>
  ⟨step_eq_agent (s.reserved_eq_false.mp h.notReserved) ▸ agentStep_next h, coreStep_next h⟩

/-! ### The transition table (R91) -/

/-- A decoder goes to its successor or to UNDERRUN. -/
theorem decode_seq {s u t : State} {p : Prop} [Decidable p] {c : BitVec 4}
    (h : (Host.Outcome.next (if p then u else s.raiseUnderrun c) : Host.Outcome State Fault Refusal) = .next t) :
    t.seq = u.seq ∨ t.seq = Stage.underrun := by
  cases h
  split
  · exact .inl rfl
  · exact .inr rfl

theorem execDecHop_seq {s t : State} (h : execDecHop s = .next t) : t.seq = Stage.route ∨ t.seq = Stage.underrun := by
  unfold execDecHop at h
  split at h <;> cases h
  · exact .inr rfl
  · exact .inl rfl

theorem execRoute_seq {s t : State} (h : execRoute s = .next t) : t.seq =
    if (sinkOf s.hdr.hop.switch_id).isSome ∧ s.sinkReply = .fail then Stage.fatal
    else if s.hopIdx.toNat + 1 = s.job.nt.toNat then Stage.done
    else Stage.hop := by
  cases hk : sinkOf s.hdr.hop.switch_id with
  | none =>
    cases (execRoute_drop hk).symm.trans h
    rw [if_neg (by simp), State.advanceHop_seq]
  | some k =>
    have h := (execRoute_sink hk).symm.trans h
    by_cases ha : s.sinkReply = .fail
    · cases (if_pos ha).symm.trans h
      rw [if_pos ⟨rfl, ha⟩, State.raiseSinkFailure_seq]
    · cases (if_neg ha).symm.trans h
      rw [if_neg (ha ·.2), State.advanceHop_seq]; rfl

theorem coreStep_row {s t : State} (h : coreStep s = .next t) : s.coreRow t.seq
    ∨ ((s.seq = Stage.idle ∨ s.seq = Stage.done ∨ s.seq = Stage.underrun ∨ s.seq = Stage.fatal) ∧ t = s) := by
  rcases coreStep_cases s with ⟨hc, e⟩ | ⟨hc, e⟩ | ⟨hc, e⟩ | ⟨hc, e⟩ | ⟨hc, e⟩ | ⟨hc, e⟩ | ⟨hc, e⟩ | ⟨hc, e⟩ | ⟨hc, e⟩
    | ⟨-, e⟩ <;> rw [e] at h
  · cases h; exact .inr ⟨hc, rfl⟩
  · exact .inl (.inl ⟨hc, decode_seq ((execDecReport_eq s).symm.trans h)⟩)
  · exact .inl (.inr (.inl ⟨hc, decode_seq ((execDecEth_eq s).symm.trans h)⟩))
  · exact .inl (.inr (.inr (.inl ⟨hc, decode_seq ((execDecIpv4_eq s).symm.trans h)⟩)))
  · exact .inl (.inr (.inr (.inr (.inl ⟨hc, decode_seq ((execDecUdp_eq s).symm.trans h)⟩))))
  · exact .inl (.inr (.inr (.inr (.inr (.inl ⟨hc, decode_seq ((execDecShim_eq s).symm.trans h)⟩)))))
  · have hseq := decode_seq ((execDecIntmeta_eq s).symm.trans h)
    rw [State.afterIntmeta_eq] at hseq
    exact .inl (.inr (.inr (.inr (.inr (.inr (.inl ⟨hc, hseq.symm⟩))))))
  · exact .inl (.inr (.inr (.inr (.inr (.inr (.inr (.inl ⟨hc, execDecHop_seq h⟩)))))))
  · exact .inl (.inr (.inr (.inr (.inr (.inr (.inr (.inr ⟨hc, execRoute_seq h⟩)))))))
  · cases h

/-- A SUBMIT takes the core from a ready STATE to REPORT, or changes the environment only. -/
theorem execSubmit_transition {s t : State} {n : Nat} (h : execSubmit n s = .next t) :
    ((s.seq = Stage.idle ∨ s.seq = Stage.done ∨ s.seq = Stage.underrun) ∧ t.seq = Stage.report)
    ∨ t = { s with env := t.env } := by
  rcases execSubmit_cases h with ⟨-, rfl⟩ | ⟨-, r, rfl⟩ | ⟨hr, -, -, -, -, rfl⟩
  · exact .inr rfl
  · exact .inr rfl
  · exact .inl ⟨s.ready_iff.mp hr, rfl⟩

/-- Settles O44: the core's rows by the STATE it steps from, and the machine's steps by the agent that acts. -/
theorem coreTransitionsAreTheTable : Obligations.CoreTransitionsAreTheTable := by
  refine ⟨fun s t h => coreStep_row h, fun s t hi h => ?_⟩
  rcases step_agents h with ⟨rest, hs, rfl⟩ | ⟨l, -, h⟩ | ⟨w, bytes, rest, -, hs, h⟩ | ⟨x, hx, -, h⟩ | ⟨q, rest, hs, -⟩
  · exact .inl ⟨rest, hs, rfl⟩
  · rcases coreStep_row h with hrow | ⟨-, rfl⟩
    · exact .inr (.inr (.inl ⟨hrow, l, h⟩))
    · exact .inr (.inr (.inr rfl))
  · rcases commandStep_cases h with ⟨n, hd, h⟩ | hkeep
    · rcases execSubmit_transition h with ⟨hready, hreport⟩ | hkeep
      · exact .inr (.inl ⟨hready, hreport, n, ⟨_, h⟩, .inr ⟨w, bytes, rest, hs, hd⟩⟩)
      · exact .inr (.inr (.inr (hkeep ▸ rfl)))
    · exact .inr (.inr (.inr hkeep))
  · rcases execSubmit_transition h with ⟨hready, hreport⟩ | hkeep
    · exact .inr (.inl ⟨hready, hreport, x.len, ⟨_, h⟩, .inl ⟨x.bytes, hx⟩⟩)
    · exact .inr (.inr (.inr (hkeep ▸ rfl)))
  · exact absurd hs (State.noDirectRequest_head hi.noDirect q rest)

end Sys2Proof.Machine
end

section
/-! PROOFS. The host commands (`44_pipeline.md` R94 to R97): what CFGW, RDREG and RDHDR write, answer and refuse, the SUBMIT
that is taken and the SUBMIT that is held. -/

namespace Sys2Proof.Machine

/-- Settles O4: each word of the spec decodes by evaluation. -/
theorem specWordsDecode : Obligations.SpecWordsDecode := ⟨rfl, rfl, rfl, rfl, rfl, rfl, rfl⟩

/-! ### CFGW (R95) -/

section
variable {s : State} {r : RegSel} {x : BitVec 16}

theorem exec_cfgw_ok {c : CfgRegs} (h : writeReg s.cfg x r = .ok c) : exec (.cfgw r x) s = .next { s with cfg := c } := by
  simp only [exec, execCfgw, h]

theorem exec_cfgw_error {e : CmdRefusal} (h : writeReg s.cfg x r = .error e) :
    exec (.cfgw r x) s = .next (s.refuse e) := by
  simp only [exec, execCfgw, h]

end

/-- The registers from index 4 up are not written by the host (R24). -/
theorem writeReg_readOnly (c : CfgRegs) (x : BitVec 16) {r : RegSel} (h : 4 ≤ r.code.toNat) :
    writeReg c x r = .error .badRegister := by
  cases r with
  | metricKind | fieldsPerHop | numTransits | diagTrace => exact absurd h (by decide)
  | status | position | length | reserved => rfl

/-- Settles O28, by the two sides of each register's width, and the indexes that CFGW does not write. -/
theorem cfgwWritesItsRegisterOrIsRefused : Obligations.CfgwWritesItsRegisterOrIsRefused := by
  intro s x
  refine ⟨fun hfit => ⟨exec_cfgw_ok (if_pos hfit), exec_cfgw_ok (if_pos hfit)⟩, fun hwide => ?bit,
    fun hfit => ⟨exec_cfgw_ok (if_pos hfit), exec_cfgw_ok (if_pos hfit)⟩, fun hwide => ?byte,
    fun r hr => exec_cfgw_error (writeReg_readOnly s.cfg x hr)⟩
  case bit =>
    have hwide : ¬ x.toNat < 2 ^ 1 := Nat.not_lt.mpr hwide
    exact ⟨exec_cfgw_error (if_neg hwide), exec_cfgw_error (if_neg hwide)⟩
  case byte =>
    have hwide : ¬ x.toNat < 2 ^ 8 := Nat.not_lt.mpr hwide
    exact ⟨exec_cfgw_error (if_neg hwide), exec_cfgw_error (if_neg hwide)⟩

/-! ### RDREG (R96) and RDHDR (R97) -/

/-- A register that is answered only when it has been written. -/
theorem exec_rdreg_written {s : State} {r : RegSel} {b : Bool} {v : Word} {e : CmdRefusal}
    (h : readReg s r = if b then .ok v else .error e) :
    exec (.rdreg r) s = .next (if b then s.answer (.regWord v) else s.refuse e) := by
  cases b <;> simp only [exec, execRdreg, h] <;> rfl

/-- Settles O29: the four configuration registers by their written bits, the status registers and the reserved indexes
as they are. -/
theorem rdregAnswersTheRegisterOrIsRefused : Obligations.RdregAnswersTheRegisterOrIsRefused := fun _ =>
  ⟨exec_rdreg_written rfl, exec_rdreg_written rfl, exec_rdreg_written rfl, exec_rdreg_written rfl, rfl, rfl, rfl,
    fun _ => rfl⟩

/-- Settles O34: RDHDR answers what its operand reads, by evaluation for each selector. -/
theorem rdhdrAnswersFieldsOnlyWhenValid : Obligations.RdhdrAnswersFieldsOnlyWhenValid := fun _ =>
  ⟨rfl, rfl, rfl, rfl, rfl, rfl, rfl, fun _ => rfl⟩

/-! ### SUBMIT (R94) -/

/-- A SUBMIT that passes every check starts the job. -/
theorem execSubmit_startJob {s : State} {n : Nat} (hr : s.ready = true) (hc : s.cfgReady = true)
    (hf : Config.fphMin ≤ s.cfg.fph.toNat) (hn : n ≤ Config.bufLenMax) (hb : n ≤ s.env.byteChannel.length) :
    execSubmit n s = .next (s.startJob n (s.env.byteChannel.take n)) := by
  obtain ⟨hbusy, hfatal, -⟩ := State.ready_excludes hr
  simp only [execSubmit, hbusy, hfatal, hr, hc, Nat.not_lt.mpr hf, Nat.not_lt.mpr hn, Nat.not_lt.mpr hb,
    Bool.false_eq_true, Bool.not_true, if_false]

/-- Settles O31: what a job starts with is `State.startJob`. -/
theorem submitStartsAJob : Obligations.SubmitStartsAJob := fun s _ hr hc hf hn hb =>
  execSubmit_startJob (s.ready_iff.mpr hr) hc hf hn hb

/-- A held SUBMIT is the next action of a core that is not busy, unless reset is the next input (R94, log 8). -/
theorem agentStep_held {s : State} {x : HeldSubmit} (hx : s.env.held = some x) (hb : s.busy = false)
    (hn : ∀ rest, s.env.script ≠ .resetInput :: rest) : agentStep s = heldStep x s := by
  unfold agentStep
  rw [hx]
  cases hs : s.env.script with
  | nil => simp only [hb, Bool.false_eq_true, if_false]
  | cons a rest =>
    cases a with
    | resetInput => exact absurd hs (hn rest)
    | coreTurn | command | cursorRequest => simp only [hb, Bool.false_eq_true, if_false]

/-- Settles O33: a busy core holds the SUBMIT, the first step that is not busy takes it, and till then the core goes on. -/
theorem busyCoreHoldsSubmit : Obligations.BusyCoreHoldsSubmit := by
  refine ⟨fun s n h1 h8 => if_pos (s.busy_iff.mpr ⟨h1, h8⟩), fun s x hx hb hseq hn => ?taken, fun s x hx hb => ?waiting⟩
  case taken => exact (step_eq_agent hseq).trans (agentStep_held hx hb hn)
  case waiting =>
    have hseq : s.seq.toNat < 12 := Nat.lt_of_le_of_lt (s.busy_iff.mp hb).2 (by decide)
    refine ⟨fun hs => ?_, fun rest hs => ?_, fun w bytes rest hs => ?_⟩
    all_goals simp only [step_eq_agent hseq, agentStep, hs, hx, hb, if_true, State.withScript]

end Sys2Proof.Machine
end

section
/-! PROOFS. The steps of a job compute the job function (`44_pipeline.md` R93, R98): a state in the middle of a job is the
start of the job with what the job function has computed so far, each core step is one equation of that function, and the
steps are counted along the way. -/

namespace Sys2Proof.Machine

/-! ### A machine that is left alone until its job ends -/

/-- From `u` the machine ends its job in `v` after at most `n` steps, and in DONE after exactly `n`. -/
inductive JobEnds : Nat → State → State → Prop
  | done {v : State} (hv : v.seq = Stage.done) (hstay : step v = .next v) : JobEnds 0 v v
  | aborted {n : Nat} {v : State} (hv : v.seq = Stage.underrun ∨ v.seq = Stage.fatal) (hstay : step v = .next v) :
      JobEnds n v v
  | next {n : Nat} {u w v : State} (hu : u.seq ≠ Stage.done) (hstep : step u = .next w) (h : JobEnds n w v) :
      JobEnds (n + 1) u v

section
variable {n : Nat} {u v : State}

/-- The last state of a job is terminal, is reached within the bound, and stays. -/
theorem JobEnds.within (h : JobEnds n u v) : (v.seq = Stage.done ∨ v.seq = Stage.underrun ∨ v.seq = Stage.fatal)
    ∧ ∃ k ≤ n, ∀ m, Sys2Proof.core.run (k + m) u = .next v := by
  induction h with
  | done hv hstay => exact ⟨.inl hv, 0, Nat.le_refl 0, fun m => run_stays hstay _⟩
  | aborted hv hstay => exact ⟨.inr hv, 0, Nat.zero_le _, fun m => run_stays hstay _⟩
  | next hu hstep h ih =>
    obtain ⟨hv, k, hk, hrun⟩ := ih
    refine ⟨hv, k + 1, Nat.succ_le_succ hk, fun m => ?_⟩
    rw [Nat.succ_add, run_next hstep, hrun m]

/-- A run at least as long as the bound ends in the last state. -/
theorem JobEnds.run (h : JobEnds n u v) {k : Nat} (hk : n ≤ k) : Sys2Proof.core.run k u = .next v := by
  obtain ⟨-, j, hj, hrun⟩ := h.within
  rw [← hrun (k - j), Nat.add_sub_cancel' (hj.trans hk)]

/-- A shorter run is not in DONE. -/
theorem JobEnds.le_of_done (h : JobEnds n u v) : ∀ {k : Nat} {t : State}, Sys2Proof.core.run k u = .next t →
    t.seq = Stage.done → n ≤ k := by
  induction h with
  | done => exact fun _ _ => Nat.zero_le _
  | aborted hv hstay =>
    intro k t hrun ht
    cases (run_stays hstay k).symm.trans hrun
    rcases hv with hv | hv <;> exact absurd (hv.symm.trans ht) (by decide)
  | next hu hstep h ih =>
    intro k t hrun ht
    cases k with
    | zero => cases hrun; exact absurd ht hu
    | succ k => exact Nat.succ_le_succ (ih ((run_next hstep k).symm.trans hrun) ht)

end

/-! ### A state in the middle of a job -/

/-- The state at stage `c` of the job that `s` started, with `a` computed so far. -/
def State.inJob (s : State) (c : BitVec 4) (a : JobAcc) : State := s.afterJob ⟨c, ResultCode.none, 0#4, a⟩

/-- What has been computed once sink `k` has answered `ans` to the value `v`. -/
def JobAcc.handed (a : JobAcc) (k : SinkId) (v : BitVec 32) (ans : SinkAnswer) : JobAcc :=
  { a with sinkEvents := a.sinkEvents ++ [⟨k, v, ans⟩] }

/-- SUBMIT leaves a job at its first stage with nothing computed. -/
theorem State.inJob_start {s : State} (h : s.atJobStart = true) : s.inJob Stage.report ⟨0, 0, s.hdr, [], []⟩ = s := by
  simp only [State.atJobStart, Bool.and_eq_true, decide_eq_true_eq] at h
  obtain ⟨⟨⟨⟨⟨hseq, hpos⟩, hhop⟩, hresult⟩, herr⟩, -⟩ := h
  cases s
  cases hseq; cases hpos; cases hhop; cases hresult; cases herr
  simp only [State.inJob, State.afterJob, List.append_nil]
  rfl

theorem State.fphMin_of_atJobStart {s : State} (h : s.atJobStart = true) : Config.fphMin ≤ s.job.fph.toNat := by
  simp only [State.atJobStart, Bool.and_eq_true, decide_eq_true_eq] at h
  exact h.2

section
variable (s : State) (c : BitVec 4) (a : JobAcc)

/-- The trace event of the machine is the one of the job function (R90). -/
theorem State.inJob_traced (e : TraceEvent) : s.inJob c (a.traced s.job.trace e) = (s.inJob c a).trace e := by
  unfold JobAcc.traced
  split
  · next ht => simp [State.inJob, State.afterJob, State.trace, ht]
  · next ht => simp [State.inJob, State.afterJob, State.trace, ht]

theorem State.inJob_finishJob :
    (s.inJob c a).finishJob = s.afterJob ⟨Stage.done, ResultCode.done, 0#4, a⟩ := rfl

theorem State.inJob_raiseSinkFailure :
    (s.inJob c a).raiseSinkFailure = s.afterJob ⟨Stage.fatal, ResultCode.fatal, Stage.route, a⟩ := rfl

/-- The answer due to the next sink event is the machine's next reply (R88). -/
theorem State.inJob_sinkReply : (s.inJob c a).sinkReply = s.sinkReplyAt a.sinkEvents.length := rfl

/-- The sink event of the machine is the one of the job function (R89). -/
theorem State.inJob_emitSink (k : SinkId) (v : BitVec 32) : (s.inJob c a).emitSink k v =
    s.inJob c (a.handed k v (s.sinkReplyAt a.sinkEvents.length)) := by
  simp only [State.inJob, State.afterJob, State.emitSink, JobAcc.handed, List.length_append, List.length_singleton,
    Env.takeSinkReplies_succ, List.append_assoc]
  rfl

end

theorem State.inJob_pos {s : State} {c : BitVec 4} {a : JobAcc} (h : a.pos ≤ 8 * s.len.toNat) :
    (s.inJob c a).pos.toNat = a.pos := by
  have hlen := s.len.isLt
  have hlt : a.pos < 2 ^ 19 := by omega
  exact Nat.mod_eq_of_lt hlt

/-! ### One core step of a job -/

section
variable {s : State} (hs : s.env.script = []) (hh : s.env.held = none) {c : BitVec 4} {a : JobAcc}
include hs hh

theorem State.step_afterJob (r : JobResult) : step (s.afterJob r) = coreStep (s.afterJob r) :=
  step_alone ((Env.takeSinkReplies_script _ _).trans hs) ((Env.takeSinkReplies_held _ _).trans hh)

theorem State.afterJob_stays {r : JobResult}
    (hr : r.seq = Stage.done ∨ r.seq = Stage.underrun ∨ r.seq = Stage.fatal) :
    step (s.afterJob r) = .next (s.afterJob r) :=
  (State.step_afterJob hs hh r).trans (terminalStatesHaveNoCoreStep _ (.inr hr))

theorem JobEnds.underrun (n : Nat) (a : JobAcc) (c : BitVec 4) :
    JobEnds n (s.afterJob (a.underrun c)) (s.afterJob (a.underrun c)) :=
  .aborted (.inl rfl) (State.afterJob_stays hs hh (.inr (.inl rfl)))

/-- A decoder's step is one equation of the job function: the span check, then the rest of the job. -/
theorem JobEnds.decode {n span p : Nat} {u : State} {r : JobResult} (hc : c ≠ Stage.done)
    (hpos : a.pos ≤ 8 * s.len.toNat) (hp : a.pos + span = p)
    (e : coreStep (s.inJob c a) = .next (if (s.inJob c a).pos.toNat + span ≤ (s.inJob c a).streamLen then u
      else (s.inJob c a).raiseUnderrun c))
    (hrest : p ≤ 8 * s.len.toNat → JobEnds n u (s.afterJob r)) :
    JobEnds (n + 1) (s.inJob c a) (s.afterJob (if p > 8 * s.len.toNat then a.underrun c else r)) := by
  have e := (State.step_afterJob hs hh _).trans e
  rw [State.inJob_pos hpos, hp] at e
  by_cases hfit : p ≤ 8 * s.len.toNat
  · rw [if_neg (Nat.not_lt.mpr hfit)]
    exact .next hc (e.trans (congrArg _ (if_pos hfit))) (hrest hfit)
  · rw [if_pos (Nat.not_le.mp hfit)]
    exact .next hc (e.trans (congrArg _ (if_neg hfit))) (JobEnds.underrun hs hh n a c)

end

/-! ### The records -/

/-- The end of one record in R98's loop: dropped, failed, or handed over with the rest of the job to come. -/
def jobRoute (j : JobInput) (answers : Nat → SinkAnswer) (rest : Nat) (r : HopRecord) (b : JobAcc) : JobResult :=
  match sinkOf r.switch_id with
  | none => jobRecords j answers rest { b with hop := b.hop + 1 }
  | some k =>
    let c := b.handed k (sampleValue j.kind r) (answers b.sinkEvents.length)
    match answers b.sinkEvents.length with
    | .fail => ⟨Stage.fatal, ResultCode.fatal, Stage.route, c⟩
    | .ok => jobRecords j answers rest { c with hop := c.hop + 1 }

/-- What has been computed once a record has been decoded. -/
def JobAcc.withRecord (a : JobAcc) (j : JobInput) : JobAcc :=
  ({ a with hdr := { a.hdr with hop := HopRecord.readFrom j.buf a.pos, vHop := true },
            pos := a.pos + 32 * j.fph }).traced j.trace (.hop (BitVec.ofNat 8 a.hop) (HopRecord.readFrom j.buf a.pos))

theorem jobRecords_succ (j : JobInput) (answers : Nat → SinkAnswer) (rest : Nat) (a : JobAcc) :
    jobRecords j answers (rest + 1) a = if a.pos + 32 * j.fph > 8 * j.len then a.underrun Stage.hop
      else jobRoute j answers rest (HopRecord.readFrom j.buf a.pos) (a.withRecord j) := rfl

/-- The state before the next record: in HOP, or in DONE when there is none left. -/
def State.atRecord (s : State) (a : JobAcc) : State :=
  if a.hop = s.job.nt.toNat then s.afterJob ⟨Stage.done, ResultCode.done, 0#4, a⟩ else s.inJob Stage.hop a

theorem State.inJob_afterHop {s : State} {a : JobAcc} (hpos : a.pos ≤ 8 * s.len.toNat) :
    (s.inJob Stage.hop a).afterHop = s.inJob Stage.route (a.withRecord s.jobInput) := by
  have htrace : s.jobInput.trace = s.job.trace := rfl
  rw [State.afterHop, State.inJob_pos hpos, JobAcc.withRecord, htrace, State.inJob_traced]
  rfl

theorem State.inJob_advanceHop {s : State} {b : JobAcc} (hb : b.hop < s.job.nt.toNat) :
    (s.inJob Stage.route b).advanceHop = s.atRecord { b with hop := b.hop + 1 } := by
  have hi : (s.inJob Stage.route b).hopIdx.toNat = b.hop := Nat.mod_eq_of_lt (hb.trans s.job.nt.isLt)
  unfold State.advanceHop State.atRecord
  rw [hi]
  rfl

section
variable {s : State} (hs : s.env.script = []) (hh : s.env.held = none)
include hs hh

/-- ROUTE is the end of one record: the drop path, or the sink's two answers. -/
theorem JobEnds.route {rest : Nat} {b : JobAcc} (hb : b.hop < s.job.nt.toNat)
    (hrest : ∀ d : JobAcc, d.hop = b.hop + 1 → d.pos = b.pos →
      JobEnds (2 * rest) (s.atRecord d) (s.afterJob (jobRecords s.jobInput s.sinkReplyAt rest d))) :
    JobEnds (2 * rest + 1) (s.inJob Stage.route b)
      (s.afterJob (jobRoute s.jobInput s.sinkReplyAt rest b.hdr.hop b)) := by
  have hstep : step (s.inJob Stage.route b) = execRoute (s.inJob Stage.route b) := State.step_afterJob hs hh _
  have hseq : (s.inJob Stage.route b).seq ≠ Stage.done := (by decide : Stage.route ≠ Stage.done)
  unfold jobRoute
  cases hk : sinkOf b.hdr.hop.switch_id with
  | none =>
    refine .next hseq ?_ (hrest _ rfl rfl)
    rw [hstep, execRoute_drop hk, State.inJob_advanceHop hb]
  | some k =>
    have hsink := hstep.trans (execRoute_sink hk)
    rw [State.inJob_sinkReply, State.inJob_emitSink] at hsink
    dsimp only
    cases hans : s.sinkReplyAt b.sinkEvents.length with
    | fail =>
      have hfatal := hsink.trans (if_pos hans)
      rw [hans, State.inJob_raiseSinkFailure] at hfatal
      exact .next hseq hfatal (.aborted (.inr rfl) (State.afterJob_stays hs hh (.inr (.inr rfl))))
    | ok =>
      have hok := hsink.trans (if_neg (by rw [hans]; decide))
      rw [State.inJob_advanceHop (b := b.handed _ _ _) hb, hans] at hok
      exact .next hseq hok (hrest _ rfl rfl)

theorem JobEnds.records (hf : Config.fphMin ≤ s.job.fph.toNat) (rest : Nat) : ∀ a : JobAcc,
    a.hop + rest = s.job.nt.toNat → a.pos ≤ 8 * s.len.toNat →
    JobEnds (2 * rest) (s.atRecord a) (s.afterJob (jobRecords s.jobInput s.sinkReplyAt rest a)) := by
  induction rest with
  | zero =>
    intro a hn _
    rw [State.atRecord, if_pos (show a.hop = s.job.nt.toNat from hn)]
    exact .done rfl (State.afterJob_stays hs hh (.inl rfl))
  | succ rest ih =>
    intro a hn hpos
    rw [State.atRecord, if_neg (by omega), jobRecords_succ]
    refine JobEnds.decode hs hh (by decide) hpos rfl (execDecHop_eq (s.inJob Stage.hop a) hf) fun hfit => ?_
    rw [State.inJob_afterHop hpos]
    have hfit : a.pos + 32 * s.job.fph.toNat ≤ 8 * s.len.toNat := hfit
    have hb : (a.withRecord s.jobInput).hop = a.hop := by simp [JobAcc.withRecord]
    have hp : (a.withRecord s.jobInput).pos = a.pos + 32 * s.job.fph.toNat := JobAcc.traced_pos _ _ _
    have hr : (a.withRecord s.jobInput).hdr.hop = HopRecord.readFrom s.buf a.pos := by
      simp [JobAcc.withRecord, State.jobInput]
    have hroute := JobEnds.route hs hh (rest := rest) (b := a.withRecord s.jobInput) (by omega)
      fun d hdhop hdpos => ih d (by omega) (by omega)
    rwa [hr] at hroute

end

/-! ### The six headers -/

section
variable {s : State} {a : JobAcc}

theorem State.inJob_afterReport (hp : (s.inJob Stage.report a).pos.toNat = 0) :
    (s.inJob Stage.report a).afterReport = s.inJob Stage.eth
      (({ a with hdr := { a.hdr with report := ReportHdr.readFrom s.buf 0, vReport := true }, pos := 128 }).traced
        s.job.trace (.report (ReportHdr.readFrom s.buf 0))) := by
  rw [State.afterReport, hp, State.inJob_traced]; rfl

theorem State.inJob_afterEth (hp : (s.inJob Stage.eth a).pos.toNat = 128) :
    (s.inJob Stage.eth a).afterEth = s.inJob Stage.ipv4
      (({ a with hdr := { a.hdr with eth := EthHdr.readFrom s.buf 128, vEth := true }, pos := 240 }).traced
        s.job.trace (.eth (EthHdr.readFrom s.buf 128))) := by
  rw [State.afterEth, hp, State.inJob_traced]; rfl

theorem State.inJob_afterIpv4 (hp : (s.inJob Stage.ipv4 a).pos.toNat = 240) :
    (s.inJob Stage.ipv4 a).afterIpv4 = s.inJob Stage.udp
      (({ a with hdr := { a.hdr with ipv4 := Ipv4Hdr.readFrom s.buf 240, vIpv4 := true }, pos := 400 }).traced
        s.job.trace (.ipv4 (Ipv4Hdr.readFrom s.buf 240))) := by
  rw [State.afterIpv4, hp, State.inJob_traced]; rfl

theorem State.inJob_afterUdp (hp : (s.inJob Stage.udp a).pos.toNat = 400) :
    (s.inJob Stage.udp a).afterUdp = s.inJob Stage.shim
      (({ a with hdr := { a.hdr with udp := UdpHdr.readFrom s.buf 400, vUdp := true }, pos := 464 }).traced
        s.job.trace (.udp (UdpHdr.readFrom s.buf 400))) := by
  rw [State.afterUdp, hp, State.inJob_traced]; rfl

theorem State.inJob_afterShim (hp : (s.inJob Stage.shim a).pos.toNat = 464) :
    (s.inJob Stage.shim a).afterShim = s.inJob Stage.intmeta
      (({ a with hdr := { a.hdr with shim := ShimHdr.readFrom s.buf 464, vShim := true }, pos := 496 }).traced
        s.job.trace (.shim (ShimHdr.readFrom s.buf 464))) := by
  rw [State.afterShim, hp, State.inJob_traced]; rfl

/-- The last header leaves the job before its first record, or done when there is none. -/
theorem State.inJob_afterIntmeta (hp : (s.inJob Stage.intmeta a).pos.toNat = 496) (h0 : a.hop = 0) :
    (s.inJob Stage.intmeta a).afterIntmeta = s.atRecord
      (({ a with hdr := { a.hdr with intmeta := IntmetaHdr.readFrom s.buf 496, vIntmeta := true }, pos := 560 }).traced
        s.job.trace (.intmeta (IntmetaHdr.readFrom s.buf 496))) := by
  have hn : a.hop = s.job.nt.toNat ↔ s.job.nt = 0#8 := by
    rw [h0]
    exact ⟨fun h => BitVec.eq_of_toNat_eq h.symm, fun h => congrArg BitVec.toNat h.symm⟩
  rw [State.afterIntmeta, State.withIntmeta, hp, State.atRecord, JobAcc.traced_hop]
  by_cases h : s.job.nt = 0#8
  · rw [if_pos (hn.mpr h), ← State.inJob_finishJob s Stage.intmeta, State.inJob_traced]
    exact if_pos h
  · rw [if_neg (mt hn.mp h), State.inJob_traced]
    exact if_neg h

end

section
variable {s : State} (hs : s.env.script = []) (hh : s.env.held = none) (hf : Config.fphMin ≤ s.job.fph.toNat)
  {a : JobAcc}
include hs hh hf

theorem JobEnds.fromIntmeta (hp : a.pos = 496) (hfit : 496 ≤ 8 * s.len.toNat) (h0 : a.hop = 0) :
    JobEnds (2 * s.job.nt.toNat + 1) (s.inJob Stage.intmeta a)
      (s.afterJob (jobFromIntmeta s.jobInput s.sinkReplyAt a)) := by
  have hpos : a.pos ≤ 8 * s.len.toNat := hp ▸ hfit
  unfold jobFromIntmeta
  refine .decode hs hh (by decide) hpos (by rw [hp]) (execDecIntmeta_eq _) fun hnext => ?_
  rw [State.inJob_afterIntmeta ((State.inJob_pos hpos).trans hp) h0]
  exact .records hs hh hf _ _ (by simp [h0]) (by simpa using hnext)

theorem JobEnds.fromShim (hp : a.pos = 464) (hfit : 464 ≤ 8 * s.len.toNat) (h0 : a.hop = 0) :
    JobEnds (2 * s.job.nt.toNat + 2) (s.inJob Stage.shim a)
      (s.afterJob (jobFromShim s.jobInput s.sinkReplyAt a)) := by
  have hpos : a.pos ≤ 8 * s.len.toNat := hp ▸ hfit
  unfold jobFromShim
  refine .decode hs hh (by decide) hpos (by rw [hp]) (execDecShim_eq _) fun hnext => ?_
  rw [State.inJob_afterShim ((State.inJob_pos hpos).trans hp)]
  exact .fromIntmeta hs hh hf (JobAcc.traced_pos _ _ _) hnext ((JobAcc.traced_hop _ _ _).trans h0)

theorem JobEnds.fromUdp (hp : a.pos = 400) (hfit : 400 ≤ 8 * s.len.toNat) (h0 : a.hop = 0) :
    JobEnds (2 * s.job.nt.toNat + 3) (s.inJob Stage.udp a)
      (s.afterJob (jobFromUdp s.jobInput s.sinkReplyAt a)) := by
  have hpos : a.pos ≤ 8 * s.len.toNat := hp ▸ hfit
  unfold jobFromUdp
  refine .decode hs hh (by decide) hpos (by rw [hp]) (execDecUdp_eq _) fun hnext => ?_
  rw [State.inJob_afterUdp ((State.inJob_pos hpos).trans hp)]
  exact .fromShim hs hh hf (JobAcc.traced_pos _ _ _) hnext ((JobAcc.traced_hop _ _ _).trans h0)

theorem JobEnds.fromIpv4 (hp : a.pos = 240) (hfit : 240 ≤ 8 * s.len.toNat) (h0 : a.hop = 0) :
    JobEnds (2 * s.job.nt.toNat + 4) (s.inJob Stage.ipv4 a)
      (s.afterJob (jobFromIpv4 s.jobInput s.sinkReplyAt a)) := by
  have hpos : a.pos ≤ 8 * s.len.toNat := hp ▸ hfit
  unfold jobFromIpv4
  refine .decode hs hh (by decide) hpos (by rw [hp]) (execDecIpv4_eq _) fun hnext => ?_
  rw [State.inJob_afterIpv4 ((State.inJob_pos hpos).trans hp)]
  exact .fromUdp hs hh hf (JobAcc.traced_pos _ _ _) hnext ((JobAcc.traced_hop _ _ _).trans h0)

theorem JobEnds.fromEth (hp : a.pos = 128) (hfit : 128 ≤ 8 * s.len.toNat) (h0 : a.hop = 0) :
    JobEnds (2 * s.job.nt.toNat + 5) (s.inJob Stage.eth a)
      (s.afterJob (jobFromEth s.jobInput s.sinkReplyAt a)) := by
  have hpos : a.pos ≤ 8 * s.len.toNat := hp ▸ hfit
  unfold jobFromEth
  refine .decode hs hh (by decide) hpos (by rw [hp]) (execDecEth_eq _) fun hnext => ?_
  rw [State.inJob_afterEth ((State.inJob_pos hpos).trans hp)]
  exact .fromIpv4 hs hh hf (JobAcc.traced_pos _ _ _) hnext ((JobAcc.traced_hop _ _ _).trans h0)

theorem JobEnds.fromReport (hp : a.pos = 0) (h0 : a.hop = 0) :
    JobEnds (2 * s.job.nt.toNat + 6) (s.inJob Stage.report a)
      (s.afterJob (jobFromReport s.jobInput s.sinkReplyAt a)) := by
  have hpos : a.pos ≤ 8 * s.len.toNat := hp ▸ Nat.zero_le _
  unfold jobFromReport
  refine .decode hs hh (by decide) hpos (by rw [hp]) (execDecReport_eq _) fun hnext => ?_
  rw [State.inJob_afterReport ((State.inJob_pos hpos).trans hp)]
  exact .fromEth hs hh hf (JobAcc.traced_pos _ _ _) hnext ((JobAcc.traced_hop _ _ _).trans h0)

end

/-! ### The whole job -/

/-- From the state that SUBMIT leaves, the machine ends in the state that the job function gives. -/
theorem jobEnds_jobRun {s : State} (hstart : s.atJobStart = true) (hs : s.env.script = []) (hh : s.env.held = none) :
    JobEnds (6 + 2 * s.job.nt.toNat) s (s.afterJob (jobRun s.jobInput s.sinkReplyAt s.hdr)) := by
  have h := JobEnds.fromReport hs hh (State.fphMin_of_atJobStart hstart) (a := ⟨0, 0, s.hdr, [], []⟩) rfl rfl
  rwa [State.inJob_start hstart, Nat.add_comm] at h

/-- Settles O52: the steps to DONE are counted along the job function, and an abort comes no later. -/
theorem jobEndsWithinItsStepBound : Obligations.JobEndsWithinItsStepBound := by
  intro s hstart hs hh
  have h := jobEnds_jobRun hstart hs hh
  obtain ⟨hend, k, hk, hrun⟩ := h.within
  exact ⟨⟨k, _, hk, hrun 0, hend, hrun⟩, fun _ _ hrun hdone => h.le_of_done hrun hdone⟩

/-- Settles O53: the machine's steps are the equations of the job function, one by one. -/
theorem jobStepsComputeTheJobFunction : Obligations.JobStepsComputeTheJobFunction :=
  fun _ _ hstart hs hh hk => (jobEnds_jobRun hstart hs hh).run hk

end Sys2Proof.Machine
end

section
/-! PROOFS. A job depends on its payload only through the bytes it decodes (`44_pipeline.md` R98, `20_memory.md` R37): the
job function takes the same branches and reads the same fields from a payload that agrees on the 70 header bytes and on the
first 32 bytes of every stride. -/

namespace Sys2Proof.Machine

/-! ### Fields of buffers that agree on their bits -/

section
variable {m m' : Memory}

theorem streamBit_congr {i : Nat} (h : m.read (i / 8) = m'.read (i / 8)) : streamBit m i = streamBit m' i := by
  rw [streamBit, streamBit, h]

theorem bitsAt_congr {p w : Nat} (h : ∀ i < w, streamBit m (p + i) = streamBit m' (p + i)) :
    bitsAt m p w = bitsAt m' p w := by
  induction w with
  | zero => rfl
  | succ w ih => rw [bitsAt, bitsAt, ih fun i hi => h i (Nat.lt_succ_of_lt hi), h w (Nat.lt_succ_self w)]

theorem fieldValues_congr {ws : List Nat} : ∀ {p : Nat}, (∀ i < ws.sum, streamBit m (p + i) = streamBit m' (p + i)) →
    fieldValues m p ws = fieldValues m' p ws := by
  induction ws with
  | nil => exact fun _ => rfl
  | cons w ws ih =>
    intro p h
    rw [List.sum_cons] at h
    have hrest : ∀ i < ws.sum, streamBit m (p + w + i) = streamBit m' (p + w + i) := fun i hi => by
      rw [Nat.add_assoc]; exact h (w + i) (by omega)
    rw [fieldValues, fieldValues, bitsAt_congr fun i hi => h i (by omega), ih hrest]

/-- A header is the same in two buffers that agree on its bits. -/
theorem readFrom_congr {α : Type} {ofFields : List Nat → α} {readFrom : Memory → Nat → α} {ws : List Nat}
    (hof : ∀ m b, ofFields (fieldValues m b ws) = readFrom m b) {b : Nat}
    (h : ∀ i < ws.sum, streamBit m (b + i) = streamBit m' (b + i)) : readFrom m b = readFrom m' b := by
  rw [← hof, ← hof, fieldValues_congr h]

end

/-! ### Payloads that agree on what a job decodes -/

/-- The payload `m` of `n` bytes agrees with that of `j` on each bound a job of `j` checks and on each bit it decodes. -/
structure JobInput.AgreesWith (j : JobInput) (m : Memory) (n : Nat) : Prop where
  bound : ∀ p ≤ 560 + 32 * j.fph * j.nt, (p > 8 * n ↔ p > 8 * j.len)
  header : ∀ i < 560, i < 8 * j.len → streamBit m i = streamBit j.buf i
  record : ∀ k < j.nt, ∀ i < 256, 560 + 32 * j.fph * k + i < 8 * j.len →
    streamBit m (560 + 32 * j.fph * k + i) = streamBit j.buf (560 + 32 * j.fph * k + i)

/-- The job of `j` on another payload. -/
def JobInput.withPayload (j : JobInput) (m : Memory) (n : Nat) : JobInput := { j with buf := m, len := n }

theorem JobInput.agreesWith_of_bytes {j : JobInput} {m : Memory} {n : Nat}
    (hhdr : ∀ a, a < 70 → a < j.len → m.read a = j.buf.read a)
    (hrec : ∀ i a, i < j.nt → a < 32 → 70 + 4 * j.fph * i + a < j.len →
      m.read (70 + 4 * j.fph * i + a) = j.buf.read (70 + 4 * j.fph * i + a))
    (hlen : n = j.len ∨ (70 + 4 * j.fph * j.nt ≤ j.len ∧ 70 + 4 * j.fph * j.nt ≤ n)) : j.AgreesWith m n := by
  have bits : ∀ k, 32 * j.fph * k = 8 * (4 * j.fph * k) := fun k => by ring
  refine ⟨fun p hp => ?_, fun i hi hlt => streamBit_congr (hhdr (i / 8) (by omega) (by omega)), fun k hk i hi hlt => ?_⟩
  · rw [bits] at hp; omega
  · rw [bits] at hlt ⊢
    have hbyte : (560 + 8 * (4 * j.fph * k) + i) / 8 = 70 + 4 * j.fph * k + i / 8 := by omega
    exact streamBit_congr (hbyte ▸ hrec k (i / 8) hk (by omega) (by omega))

section
variable {j : JobInput} {m : Memory} {n : Nat} (h : j.AgreesWith m n) {answers : Nat → SinkAnswer}
include h

/-- Both jobs underrun at a stage's bound, or both go on. -/
theorem JobInput.AgreesWith.stage {p : Nat} {u r r' : JobResult} (hp : p ≤ 560 + 32 * j.fph * j.nt)
    (hrest : p ≤ 8 * j.len → r' = r) : (if p > 8 * n then u else r') = if p > 8 * j.len then u else r := by
  rw [if_congr (h.bound p hp) rfl rfl]
  split
  · rfl
  · next hfit => exact hrest (Nat.not_lt.mp hfit)

/-- A header whose span fits is the same in both payloads. -/
theorem JobInput.AgreesWith.readHeader {α : Type} {ofFields : List Nat → α} {readFrom : Memory → Nat → α}
    {ws : List Nat} (hof : ∀ m b, ofFields (fieldValues m b ws) = readFrom m b) {b : Nat} (hb : b + ws.sum ≤ 560)
    (hfit : b + ws.sum ≤ 8 * j.len) : readFrom m b = readFrom j.buf b :=
  readFrom_congr hof fun i hi => h.header (b + i) (by omega) (by omega)

/-- A record whose stride fits is the same in both payloads. -/
theorem JobInput.AgreesWith.readRecord (hf : 8 ≤ j.fph) {k : Nat} (hk : k < j.nt)
    (hfit : 560 + 32 * j.fph * k + 32 * j.fph ≤ 8 * j.len) :
    HopRecord.readFrom m (560 + 32 * j.fph * k) = HopRecord.readFrom j.buf (560 + 32 * j.fph * k) :=
  readFrom_congr HopRecord.ofFields_values fun i (hi : i < 256) => h.record k hk i hi (by omega)

omit h in
theorem jobRoute_withPayload {rest : Nat} {r : HopRecord} {b : JobAcc}
    (hrest : ∀ d : JobAcc, d.hop = b.hop + 1 → d.pos = b.pos →
      jobRecords (j.withPayload m n) answers rest d = jobRecords j answers rest d) :
    jobRoute (j.withPayload m n) answers rest r b = jobRoute j answers rest r b := by
  unfold jobRoute
  split
  · exact hrest _ rfl rfl
  · dsimp only
    split
    · rfl
    · exact hrest _ rfl rfl

theorem jobRecords_withPayload (hf : 8 ≤ j.fph) (rest : Nat) : ∀ a : JobAcc, a.hop + rest = j.nt →
    a.pos = 560 + 32 * j.fph * a.hop →
    jobRecords (j.withPayload m n) answers rest a = jobRecords j answers rest a := by
  induction rest with
  | zero => exact fun _ _ _ => rfl
  | succ rest ih =>
    intro a hn hpos
    have hlast : 32 * j.fph * (a.hop + 1) ≤ 32 * j.fph * j.nt := Nat.mul_le_mul_left _ (by omega)
    rw [Nat.mul_succ] at hlast
    rw [jobRecords_succ, jobRecords_succ]
    refine h.stage (by show a.pos + 32 * j.fph ≤ _; omega) fun hfit => ?_
    have hread : HopRecord.readFrom m a.pos = HopRecord.readFrom j.buf a.pos := by
      rw [hpos] at hfit ⊢
      exact h.readRecord hf (by omega) hfit
    have hacc : a.withRecord (j.withPayload m n) = a.withRecord j := by
      simp only [JobAcc.withRecord, JobInput.withPayload, hread]
    rw [hacc]
    show jobRoute _ _ _ (HopRecord.readFrom m a.pos) _ = _
    rw [hread]
    have hb : (a.withRecord j).hop = a.hop := JobAcc.traced_hop _ _ _
    have hp : (a.withRecord j).pos = a.pos + 32 * j.fph := JobAcc.traced_pos _ _ _
    refine jobRoute_withPayload fun d hdhop hdpos => ih d (by omega) ?_
    rw [hdpos, hdhop, hp, hb, hpos, Nat.mul_succ, Nat.add_assoc]

theorem jobFromIntmeta_withPayload (hf : 8 ≤ j.fph) {a : JobAcc} (h0 : a.hop = 0) :
    jobFromIntmeta (j.withPayload m n) answers a = jobFromIntmeta j answers a := by
  refine h.stage (Nat.le_add_right _ _) fun hfit => ?_
  have hread : IntmetaHdr.readFrom m 496 = IntmetaHdr.readFrom j.buf 496 :=
    h.readHeader IntmetaHdr.ofFields_values (by decide) hfit
  refine (jobRecords_withPayload h hf _ _ (by simp [h0]; rfl) (by simp [h0])).trans ?_
  simp only [JobInput.withPayload, hread]

theorem jobFromShim_withPayload (hf : 8 ≤ j.fph) {a : JobAcc} (h0 : a.hop = 0) :
    jobFromShim (j.withPayload m n) answers a = jobFromShim j answers a := by
  refine h.stage (Nat.le_add_right_of_le (by decide)) fun hfit => ?_
  have hread : ShimHdr.readFrom m 464 = ShimHdr.readFrom j.buf 464 := h.readHeader ShimHdr.ofFields_values (by decide) hfit
  refine (jobFromIntmeta_withPayload h hf (by simp [h0])).trans ?_
  simp only [JobInput.withPayload, hread]

theorem jobFromUdp_withPayload (hf : 8 ≤ j.fph) {a : JobAcc} (h0 : a.hop = 0) :
    jobFromUdp (j.withPayload m n) answers a = jobFromUdp j answers a := by
  refine h.stage (Nat.le_add_right_of_le (by decide)) fun hfit => ?_
  have hread : UdpHdr.readFrom m 400 = UdpHdr.readFrom j.buf 400 := h.readHeader UdpHdr.ofFields_values (by decide) hfit
  refine (jobFromShim_withPayload h hf (by simp [h0])).trans ?_
  simp only [JobInput.withPayload, hread]

theorem jobFromIpv4_withPayload (hf : 8 ≤ j.fph) {a : JobAcc} (h0 : a.hop = 0) :
    jobFromIpv4 (j.withPayload m n) answers a = jobFromIpv4 j answers a := by
  refine h.stage (Nat.le_add_right_of_le (by decide)) fun hfit => ?_
  have hread : Ipv4Hdr.readFrom m 240 = Ipv4Hdr.readFrom j.buf 240 := h.readHeader Ipv4Hdr.ofFields_values (by decide) hfit
  refine (jobFromUdp_withPayload h hf (by simp [h0])).trans ?_
  simp only [JobInput.withPayload, hread]

theorem jobFromEth_withPayload (hf : 8 ≤ j.fph) {a : JobAcc} (h0 : a.hop = 0) :
    jobFromEth (j.withPayload m n) answers a = jobFromEth j answers a := by
  refine h.stage (Nat.le_add_right_of_le (by decide)) fun hfit => ?_
  have hread : EthHdr.readFrom m 128 = EthHdr.readFrom j.buf 128 := h.readHeader EthHdr.ofFields_values (by decide) hfit
  refine (jobFromIpv4_withPayload h hf (by simp [h0])).trans ?_
  simp only [JobInput.withPayload, hread]

theorem jobFromReport_withPayload (hf : 8 ≤ j.fph) {a : JobAcc} (h0 : a.hop = 0) :
    jobFromReport (j.withPayload m n) answers a = jobFromReport j answers a := by
  refine h.stage (Nat.le_add_right_of_le (by decide)) fun hfit => ?_
  have hread : ReportHdr.readFrom m 0 = ReportHdr.readFrom j.buf 0 := h.readHeader ReportHdr.ofFields_values (by decide) hfit
  refine (jobFromEth_withPayload h hf (by simp [h0])).trans ?_
  simp only [JobInput.withPayload, hread]

/-- The job on a payload that agrees on what it decodes is the same job. -/
theorem jobRun_withPayload (hf : 8 ≤ j.fph) (hdr : HdrRegs) :
    jobRun (j.withPayload m n) answers hdr = jobRun j answers hdr := jobFromReport_withPayload h hf rfl

end

/-- Settles O54: the job function takes the same branches and reads the same fields, and the machine's run to the end is
the job function's. -/
theorem jobDependsOnlyOnTheBytesItDecodes : Obligations.JobDependsOnlyOnTheBytesItDecodes := by
  refine ⟨fun j m n answers hdr hf hhdr hrec hlen => ?job, fun s t m n k hstart hs hh hhdr hrec hlen hk hrun => ?run⟩
  case job => exact jobRun_withPayload (JobInput.agreesWith_of_bytes hhdr hrec hlen) hf hdr
  case run =>
    have hlen := hlen.imp_left (congrArg BitVec.toNat)
    have hagree : s.jobInput.AgreesWith m n.toNat := JobInput.agreesWith_of_bytes hhdr hrec hlen
    have hjob := jobRun_withPayload (answers := s.sinkReplyAt) hagree (State.fphMin_of_atJobStart hstart) s.hdr
    cases (jobStepsComputeTheJobFunction s k hstart hs hh hk).symm.trans hrun
    refine (jobStepsComputeTheJobFunction { s with buf := m, len := n } k hstart hs hh hk).trans ?_
    exact congrArg (fun r => Host.Outcome.next (({ s with buf := m, len := n } : State).afterJob r)) hjob

end Sys2Proof.Machine
end

section
/-! PROOFS. Faults and refusals (`60_exceptions.md` R104 to R107): where the machine stops, why a SUBMIT or a host word is
refused, that a refusal is the whole of what a refused command does, and that FATAL is left only by reset. -/

namespace Sys2Proof.Machine

/-! ### Faults (R106) -/

theorem coreStep_reserved {s : State} (h : 12 ≤ s.seq.toNat) : coreStep s = .fault .reservedState := by
  simp only [coreStep, (decodeSequencer_reserved_iff s.seq).mpr h]

theorem cursorStep_illegal {q : BitVec 16} {r : Reject} (h : decodeCursor q = .error r) (s : State) :
    cursorStep q s = .fault .illegalCursorRequest := by
  simp only [cursorStep, h]

/-- Settles O8: the core, a SUBMIT and the machine in a reserved STATE, then a request that is rejected or too wide. -/
theorem reservedStateAndIllegalRequestsFault : Obligations.ReservedStateAndIllegalRequestsFault :=
  ⟨fun _ h => coreStep_reserved h, fun s n h => execSubmit_reserved s n (s.reserved_iff.mpr h),
    fun _ h hn => step_reserved h hn, fun s _ _ h => cursorStep_illegal h s,
    fun _ _ hw => if_neg (Nat.not_le.mpr hw), fun _ _ hw => if_neg (Nat.not_le.mpr hw)⟩

/-! ### The refusals of SUBMIT (R105, R107) -/

/-- FATAL refuses a SUBMIT, whatever the environment. -/
theorem execSubmit_fatal {s : State} (h : s.seq = Stage.fatal) (e : Env) (n : Nat) :
    execSubmit n { s with env := e } = .next (({ s with env := e } : State).refuse .submitAfterFatal) := by
  have hbusy : ¬ ({ s with env := e } : State).busy = true := by rw [State.busy_iff, h]; decide
  rw [execSubmit, if_neg hbusy, if_pos h]

/-- In a ready STATE the checks left are those of the configuration, the length and the byte channel. -/
theorem execSubmit_ready {s : State} (h : s.ready = true) (n : Nat) : execSubmit n s =
    if !s.cfgReady then .next (s.refuse .configUnwritten)
    else if s.cfg.fph.toNat < Config.fphMin then .next (s.refuse .fieldsPerHopTooSmall)
    else if n > Config.bufLenMax then .next (s.refuse .payloadTooLong)
    else if s.env.byteChannel.length < n then .next (s.refuse .shortByteChannel)
    else .next (s.startJob n (s.env.byteChannel.take n)) := by
  obtain ⟨hbusy, hfatal, -⟩ := State.ready_excludes h
  simp only [execSubmit, hbusy, hfatal, h, Bool.false_eq_true, Bool.not_true, if_false]

/-- Settles O32: FATAL, and in a ready STATE each check after those before it have passed. -/
theorem submitRefusalsInOrder : Obligations.SubmitRefusalsInOrder := by
  refine fun s n => ⟨fun hfatal => execSubmit_fatal hfatal s.env n, fun hr => ?_⟩
  have ready := execSubmit_ready (s.ready_iff.mpr hr) n
  refine ⟨fun hc => ready.trans ?config, fun hc hf => ready.trans ?fields, fun hc hf hn => ready.trans ?length,
    fun hc hf hn hb => ready.trans ?channel⟩
  case config => rw [hc]; rfl
  case fields => rw [hc]; exact if_pos hf
  case length => rw [hc]; exact (if_neg (Nat.not_lt.mpr hf)).trans (if_pos hn)
  case channel =>
    rw [hc]
    exact (if_neg (Nat.not_lt.mpr hf)).trans ((if_neg (Nat.not_lt.mpr hn)).trans (if_pos hb))

/-! ### A host word that selects no command (R107 item 4) -/

/-- Settles O36: with nothing held the host's word is the next action, and one that does not decode is refused. -/
theorem illegalHostWordIsRefused : Obligations.IllegalHostWordIsRefused := by
  intro s w bytes rest r hseq hh hs hd
  have hagent : agentStep s = commandStep w bytes (s.withScript rest) := by simp only [agentStep, hs, hh]
  simp only [step_eq_agent hseq, hagent, commandStep, hd]
  rfl

/-! ### A refused command has no other effect (R105) -/

/-- `t` carries the refusal marks of `s`, or it is `s` with one more of them. -/
def KeepsMarksOrRefused (s t : State) : Prop := t.env.refusals = s.env.refusals ∨ ∃ r, t = s.refuse r

section
variable {s t : State} {i : Instr}

/-- Everything a SKIP can do when it does not fault. -/
theorem exec_skip_cases {w : Nat} (h : exec (.skip w) s = .next t) :
    t = s.setPos (s.pos.toNat + w) ∨ t = s.raiseUnderrun s.seq := by
  by_cases hw : w ≤ 8191
  · rcases Nat.lt_or_ge s.streamLen (s.pos.toNat + w) with hlt | hfit
    · cases h.symm.trans (exec_skip_short hw hlt); exact .inr rfl
    · cases h.symm.trans (exec_skip_fits hw hfit); exact .inl rfl
  · cases h.symm.trans (if_neg hw)

/-- A header decoder marks nothing, whether its span fits or not. -/
theorem KeepsMarksOrRefused.decode {u : State} {p : Prop} [Decidable p] {c : BitVec 4}
    (h : (Host.Outcome.next (if p then u else s.raiseUnderrun c) : Host.Outcome State Fault Refusal) = .next t)
    (hu : u.env = s.env) : KeepsMarksOrRefused s t := by
  cases h
  split
  · exact .inl (congrArg Env.refusals hu)
  · exact .inl rfl

theorem State.afterIntmeta_env (s : State) : s.afterIntmeta.env = s.env := by rw [State.afterIntmeta_eq]; rfl

theorem execDecHop_marks (h : execDecHop s = .next t) : KeepsMarksOrRefused s t := by
  unfold execDecHop at h
  split at h <;> cases h <;> exact .inl rfl

theorem execRoute_marks (h : execRoute s = .next t) : KeepsMarksOrRefused s t := by
  rw [execRoute_eq] at h
  split at h
  · cases h; exact .inl (congrArg Env.refusals s.advanceHop_env)
  · split at h <;> cases h <;> exact .inl (by simp)

theorem execCfgw_marks {r : RegSel} {x : BitVec 16} (h : execCfgw r x s = .next t) : KeepsMarksOrRefused s t := by
  unfold execCfgw at h
  split at h <;> cases h
  · exact .inr ⟨_, rfl⟩
  · exact .inl rfl

theorem execRdreg_marks {r : RegSel} (h : execRdreg r s = .next t) : KeepsMarksOrRefused s t := by
  unfold execRdreg at h
  split at h <;> cases h
  · exact .inr ⟨_, rfl⟩
  · exact .inl rfl

theorem execRdhdr_marks {r : HdrSel} (h : execRdhdr r s = .next t) : KeepsMarksOrRefused s t := by
  unfold execRdhdr at h
  split at h <;> cases h
  · exact .inr ⟨_, rfl⟩
  · exact .inl rfl

theorem execSubmit_marks {n : Nat} (h : execSubmit n s = .next t) : KeepsMarksOrRefused s t := by
  rcases execSubmit_cases h with ⟨-, rfl⟩ | ⟨-, r, rfl⟩ | ⟨-, -, -, -, -, rfl⟩
  · exact .inl rfl
  · exact .inr ⟨r, rfl⟩
  · exact .inl rfl

/-- An operation that marks the run has refused, and done nothing else. -/
theorem exec_marks (h : exec i s = .next t) : KeepsMarksOrRefused s t := by
  cases i with
  | read w => rcases exec_read_cases h with ⟨-, rfl⟩ | ⟨-, rfl⟩ <;> exact .inl rfl
  | skip w => rcases exec_skip_cases h with rfl | rfl <;> exact .inl rfl
  | decReport => exact .decode ((execDecReport_eq s).symm.trans h) rfl
  | decEth => exact .decode ((execDecEth_eq s).symm.trans h) rfl
  | decIpv4 => exact .decode ((execDecIpv4_eq s).symm.trans h) rfl
  | decUdp => exact .decode ((execDecUdp_eq s).symm.trans h) rfl
  | decShim => exact .decode ((execDecShim_eq s).symm.trans h) rfl
  | decIntmeta => exact .decode ((execDecIntmeta_eq s).symm.trans h) s.afterIntmeta_env
  | decHop => exact execDecHop_marks h
  | route => exact execRoute_marks h
  | cfgw r x => exact execCfgw_marks h
  | rdreg r => exact execRdreg_marks h
  | submit n => exact execSubmit_marks h
  | rdhdr r => exact execRdhdr_marks h

end

/-- Settles O37: an operation keeps the marks, or it is a refusal. -/
theorem refusedCommandChangesNoCoreState : Obligations.RefusedCommandChangesNoCoreState := fun _ _ _ h hmark =>
  (exec_marks h).resolve_left hmark

/-! ### FATAL (R104) -/

/-- In FATAL the core has no step, a SUBMIT is refused, and the other commands write no register of the core but CFG_*. -/
theorem step_fatal {s t : State} (hfatal : s.seq = Stage.fatal) (hd : s.noDirectRequest = true)
    (hn : ∀ rest, s.env.script ≠ .resetInput :: rest) (h : step s = .next t) :
    t = { s with cfg := t.cfg, env := t.env } := by
  rcases step_agents h with ⟨rest, hs, -⟩ | ⟨l, -, h⟩ | ⟨w, bytes, rest, -, -, h⟩ | ⟨x, -, -, h⟩ | ⟨q, rest, hs, -⟩
  · exact absurd hs (hn rest)
  · cases h.symm.trans (terminalStatesHaveNoCoreStep (s.withScript l) (.inr (.inr (.inr hfatal))))
    rfl
  · rcases commandStep_cases h with ⟨n, -, h⟩ | hkeep
    · cases h.symm.trans (execSubmit_fatal hfatal _ n)
      rfl
    · exact hkeep
  · cases h.symm.trans (execSubmit_fatal hfatal _ x.len)
    rfl
  · exact absurd hs (State.noDirectRequest_head hd q rest)

/-- Settles O49: a SUBMIT alone, sent by the host and held, then any step but reset, then reset. -/
theorem fatalIsLeftOnlyByReset : Obligations.FatalIsLeftOnlyByReset := by
  intro s hfatal
  have hseq : s.seq.toNat < 12 := by rw [hfatal]; decide
  have hbusy : s.busy = false := by simp only [State.busy, hfatal]; decide
  refine ⟨execSubmit_fatal hfatal s.env, fun w bytes rest n hh hs hw => ?sent, fun x hx hn => ?held,
    fun t hd hn h => step_fatal hfatal hd hn h, fun rest hs => ⟨_, step_reset hs, rfl⟩⟩
  case sent => exact ⟨_, (step_command hseq hh hs hw).trans (execSubmit_fatal hfatal _ n), rfl, rfl⟩
  case held =>
    have hstep : step s = heldStep x s := (step_eq_agent hseq).trans (agentStep_held hx hbusy hn)
    exact ⟨_, hstep.trans (execSubmit_fatal hfatal _ x.len), rfl, rfl, rfl⟩

end Sys2Proof.Machine
end

section
/-! PROOFS. Where a job underruns is a function of its length (`60_exceptions.md` R103): the job function comes to each stage
at a fixed position, and a record that does not fit is the one whose span holds the end of the payload. -/

namespace Sys2Proof.Machine

/-! ### The headers -/

section
variable (j : JobInput) (answers : Nat → SinkAnswer) (hdr : HdrRegs)

/-- The job comes to stream position `p` with no record counted, and the rest of it is `rest`. -/
def JobInput.Reaches (p : Nat) (rest : JobInput → (Nat → SinkAnswer) → JobAcc → JobResult) : Prop :=
  ∃ a : JobAcc, a.hop = 0 ∧ a.pos = p ∧ jobRun j answers hdr = rest j answers a

variable {j answers hdr}

theorem JobInput.reaches_report : j.Reaches answers hdr 0 jobFromReport := ⟨_, rfl, rfl, rfl⟩

/-- A stage whose span fits hands the job on to the next one, with what it has traced. -/
theorem JobInput.Reaches.next {p q : Nat} {f g : JobInput → (Nat → SinkAnswer) → JobAcc → JobResult}
    (h : j.Reaches answers hdr p f)
    (hfit : ∀ a, ∃ (b : JobAcc) (e : TraceEvent),
      f j answers a = g j answers (b.traced j.trace e) ∧ b.hop = a.hop ∧ b.pos = q) :
    j.Reaches answers hdr q g := by
  obtain ⟨a, h0, -, hrun⟩ := h
  obtain ⟨b, e, hnext, hhop, hpos⟩ := hfit a
  exact ⟨b.traced j.trace e, by rw [JobAcc.traced_hop, hhop, h0], by rw [JobAcc.traced_pos, hpos], hrun.trans hnext⟩

theorem JobInput.reaches_eth (h : 16 ≤ j.len) : j.Reaches answers hdr 128 jobFromEth :=
  reaches_report.next fun _ => ⟨_, _, if_neg (by omega), rfl, rfl⟩

theorem JobInput.reaches_ipv4 (h : 30 ≤ j.len) : j.Reaches answers hdr 240 jobFromIpv4 :=
  (reaches_eth (by omega)).next fun _ => ⟨_, _, if_neg (by omega), rfl, rfl⟩

theorem JobInput.reaches_udp (h : 50 ≤ j.len) : j.Reaches answers hdr 400 jobFromUdp :=
  (reaches_ipv4 (by omega)).next fun _ => ⟨_, _, if_neg (by omega), rfl, rfl⟩

theorem JobInput.reaches_shim (h : 58 ≤ j.len) : j.Reaches answers hdr 464 jobFromShim :=
  (reaches_udp (by omega)).next fun _ => ⟨_, _, if_neg (by omega), rfl, rfl⟩

theorem JobInput.reaches_intmeta (h : 62 ≤ j.len) : j.Reaches answers hdr 496 jobFromIntmeta :=
  (reaches_shim (by omega)).next fun _ => ⟨_, _, if_neg (by omega), rfl, rfl⟩

theorem JobInput.reaches_records (h : 70 ≤ j.len) :
    j.Reaches answers hdr 560 fun j answers => jobRecords j answers j.nt :=
  (reaches_intmeta (by omega)).next fun _ => ⟨_, _, if_neg (by omega), rfl, rfl⟩

end

/-- A payload of less than `q` bytes ends the job at a stage that checks for `q`. -/
theorem State.afterJob_underruns {s : State} {p q : Nat} {c : BitVec 4}
    {f : JobInput → (Nat → SinkAnswer) → JobAcc → JobResult} (h : s.jobInput.Reaches s.sinkReplyAt s.hdr p f)
    (hp : p < 2 ^ 19) (hlt : s.len.toNat < q)
    (hf : ∀ a, 8 * q > 8 * s.jobInput.len → f s.jobInput s.sinkReplyAt a = a.underrun c) :
    (s.afterJob (jobRun s.jobInput s.sinkReplyAt s.hdr)).seq = Stage.underrun
    ∧ (s.afterJob (jobRun s.jobInput s.sinkReplyAt s.hdr)).errStage = c
    ∧ (s.afterJob (jobRun s.jobInput s.sinkReplyAt s.hdr)).pos.toNat = p := by
  obtain ⟨a, -, rfl, hrun⟩ := h
  rw [hrun, hf a (Nat.mul_lt_mul_of_pos_left hlt (by decide))]
  exact ⟨rfl, rfl, Nat.mod_eq_of_lt hp⟩

/-! ### The records -/

/-- How a job that has come to its records ends: with all of them in the payload, by a sink's failure, or by an underrun
at the record whose stride holds the end of the payload. -/
inductive RecordsEnd (j : JobInput) : JobResult → Prop
  | done {r : JobResult} (hseq : r.seq = Stage.done) (hfit : 70 + 4 * j.fph * j.nt ≤ j.len) : RecordsEnd j r
  | fatal {r : JobResult} (hseq : r.seq = Stage.fatal) : RecordsEnd j r
  | underrun {a : JobAcc} (hpos : a.pos = 560 + 32 * j.fph * a.hop) (hhop : a.hop < j.nt)
      (hfit : 70 + 4 * j.fph * a.hop ≤ j.len) (hshort : j.len < 70 + 4 * j.fph * (a.hop + 1)) :
      RecordsEnd j (a.underrun Stage.hop)

/-- A record is dropped or handed over, and the next one is begun at the position it left, or its sink fails. -/
theorem jobRoute_recordsEnd {j : JobInput} {answers : Nat → SinkAnswer} {rest : Nat} {r : HopRecord} {b : JobAcc}
    (hrest : ∀ d : JobAcc, d.hop = b.hop + 1 → d.pos = b.pos → RecordsEnd j (jobRecords j answers rest d)) :
    RecordsEnd j (jobRoute j answers rest r b) := by
  unfold jobRoute
  split
  · exact hrest _ rfl rfl
  · dsimp only
    split
    · exact .fatal rfl
    · exact hrest _ rfl rfl

theorem jobRecords_recordsEnd {j : JobInput} {answers : Nat → SinkAnswer} (rest : Nat) : ∀ a : JobAcc,
    a.hop + rest = j.nt → a.pos = 560 + 32 * j.fph * a.hop → a.pos ≤ 8 * j.len →
    RecordsEnd j (jobRecords j answers rest a) := by
  have bytes (k : Nat) : 32 * j.fph * k = 8 * (4 * j.fph * k) := by ring
  induction rest with
  | zero =>
    intro a hn hpos hin
    rw [bytes, show a.hop = j.nt from hn] at hpos
    exact .done rfl (by omega)
  | succ rest ih =>
    intro a hn hpos hin
    have hbyte := bytes a.hop
    rw [jobRecords_succ]
    split
    · next hshort => exact .underrun hpos (by omega) (by omega) (by rw [Nat.mul_succ]; omega)
    · next hfit =>
      have hb : (a.withRecord j).hop = a.hop := JobAcc.traced_hop _ _ _
      have hp : (a.withRecord j).pos = a.pos + 32 * j.fph := JobAcc.traced_pos _ _ _
      refine jobRoute_recordsEnd fun d hdhop hdpos => ih d (by omega) ?_ (by omega)
      rw [hdpos, hdhop, hp, hb, hpos, Nat.mul_succ, Nat.add_assoc]

theorem jobRun_recordsEnd {j : JobInput} {answers : Nat → SinkAnswer} {hdr : HdrRegs} (h : 70 ≤ j.len) :
    RecordsEnd j (jobRun j answers hdr) := by
  obtain ⟨a, h0, hpos, hrun⟩ := JobInput.reaches_records h
  rw [hrun]
  exact jobRecords_recordsEnd j.nt a (by omega) (by rw [hpos, h0, Nat.mul_zero]) (by omega)

/-- Two records of which each begins before the other ends are one. -/
theorem eq_of_strides_meet {d i k : Nat} (hik : d * i < d * (k + 1)) (hki : d * k < d * (i + 1)) : k = i := by
  have hle := Nat.lt_of_mul_lt_mul_left hik
  have hge := Nat.lt_of_mul_lt_mul_left hki
  omega

/-- With every record in the payload the job does not underrun. -/
theorem RecordsEnd.seq_ne_underrun {j : JobInput} {r : JobResult} (h : RecordsEnd j r)
    (hall : 70 + 4 * j.fph * j.nt ≤ j.len) : r.seq ≠ Stage.underrun := by
  cases h with
  | done hseq => rw [hseq]; decide
  | fatal hseq => rw [hseq]; decide
  | underrun hpos hhop hfit hshort =>
    have hlast : 4 * j.fph * (_ + 1) ≤ 4 * j.fph * j.nt := Nat.mul_le_mul_left _ hhop
    omega

/-- The record whose stride holds the end of the payload is where the job underruns, if no sink has failed before. -/
theorem RecordsEnd.underruns_at {j : JobInput} {r : JobResult} (h : RecordsEnd j r) {i : Nat} (hi : i < j.nt)
    (hfit : 70 + 4 * j.fph * i ≤ j.len) (hshort : j.len < 70 + 4 * j.fph * (i + 1)) (hfatal : r.seq ≠ Stage.fatal) :
    ∃ a : JobAcc, a.hop = i ∧ a.pos = 560 + 32 * j.fph * i ∧ r = a.underrun Stage.hop := by
  cases h with
  | done _ hall =>
    have hlast : 4 * j.fph * (i + 1) ≤ 4 * j.fph * j.nt := Nat.mul_le_mul_left _ hi
    omega
  | fatal hseq => exact absurd hseq hfatal
  | @underrun a hpos _ hkfit hkshort =>
    obtain rfl : a.hop = i := eq_of_strides_meet (d := 4 * j.fph) (by omega) (by omega)
    exact ⟨a, rfl, hpos, rfl⟩

/-- Settles O55: a header that does not fit is found at the stage the job comes to, and a record by the stride that holds
the end of the payload. -/
theorem underrunThresholdsByLength : Obligations.UnderrunThresholdsByLength := by
  intro s t hstart hs hh hrun
  cases (jobStepsComputeTheJobFunction s _ hstart hs hh (Nat.le_refl _)).symm.trans hrun
  refine ⟨fun hlt => ?report, fun hle hlt => ?eth, fun hle hlt => ?ipv4, fun hle hlt => ?udp, fun hle hlt => ?shim,
    fun hle hlt => ?intmeta, fun i hi hle hlt hfatal => ?record, fun hall => ?fits⟩
  case report => exact State.afterJob_underruns JobInput.reaches_report (by decide) hlt fun _ hshort => if_pos hshort
  case eth => exact State.afterJob_underruns (JobInput.reaches_eth hle) (by decide) hlt fun _ hshort => if_pos hshort
  case ipv4 => exact State.afterJob_underruns (JobInput.reaches_ipv4 hle) (by decide) hlt fun _ hshort => if_pos hshort
  case udp => exact State.afterJob_underruns (JobInput.reaches_udp hle) (by decide) hlt fun _ hshort => if_pos hshort
  case shim => exact State.afterJob_underruns (JobInput.reaches_shim hle) (by decide) hlt fun _ hshort => if_pos hshort
  case intmeta => exact State.afterJob_underruns (JobInput.reaches_intmeta hle) (by decide) hlt fun _ hshort => if_pos hshort
  case record =>
    obtain ⟨a, hhop, hpos, hrun⟩ :=
      (jobRun_recordsEnd (j := s.jobInput) (Nat.le_of_add_right_le hle)).underruns_at hi hle hlt hfatal
    have hp : a.pos < 2 ^ 19 := by
      have hlen := s.len.isLt
      have hbits : a.pos = 560 + 8 * (4 * s.job.fph.toNat * i) := hpos.trans (by rw [State.jobInput]; ring)
      omega
    rw [hrun]
    exact ⟨rfl, rfl, (Nat.mod_eq_of_lt (hhop ▸ hi.trans s.job.nt.isLt)).trans hhop, (Nat.mod_eq_of_lt hp).trans hpos⟩
  case fits => exact (jobRun_recordsEnd (Nat.le_of_add_right_le hall)).seq_ne_underrun hall

end Sys2Proof.Machine
end

section
/-! PROOFS. Reset and a held SUBMIT (`70_reset_and_hazards.md`): reset in every state, and two SUBMITs in a row as two
complete jobs. The core's step does not see the host's side of the environment, so a running job ends the same whether or
not a SUBMIT waits. -/

namespace Sys2Proof.Machine

/-! ### Reset (R118, R119) -/

/-- Settles O39: in every STATE the reset input is the reset action, which is written from `State.reset`. -/
theorem resetOverridesEverything : Obligations.ResetOverridesEverything := fun _ _ hs => step_reset hs

/-! ### The core's step does not see the script and the held SUBMIT -/

/-- The state with the script `l`, and `o` as what is held. -/
def State.withHost (s : State) (l : List ScriptEvent) (o : Option HeldSubmit) : State :=
  { s with env := { s.env with script := l, held := o } }

section
variable {s t : State} {l : List ScriptEvent} {o : Option HeldSubmit}

theorem State.withHost_of_script (h : s.env.script = l) :
    s.withHost l o = { s with env := { s.env with held := o } } := by
  subst h; rfl

theorem State.advanceHop_withHost (s : State) : (s.withHost l o).advanceHop = s.advanceHop.withHost l o := by
  simp only [State.advanceHop_eq]; rfl

theorem State.afterIntmeta_withHost (s : State) : (s.withHost l o).afterIntmeta = s.afterIntmeta.withHost l o := by
  simp only [State.afterIntmeta_eq]; rfl

/-- The sink's answers are the same, and taken from the same list. -/
theorem State.emitSink_withHost (s : State) (k : SinkId) (v : BitVec 32) :
    (s.withHost l o).emitSink k v = (s.emitSink k v).withHost l o := by
  have henv : (s.withHost l o).env.takeSinkReply = { s.env.takeSinkReply with script := l, held := o } := by
    unfold Env.takeSinkReply State.withHost
    dsimp only
    split <;> rfl
  unfold State.emitSink
  rw [henv]
  rfl

/-- A decoder fits or underruns in both states alike. -/
theorem decode_withHost {u u' : State} {p : Prop} [Decidable p] {c : BitVec 4} (hu : u' = u.withHost l o)
    (h : (Host.Outcome.next (if p then u else s.raiseUnderrun c) : Host.Outcome State Fault Refusal) = .next t) :
    (Host.Outcome.next (if p then u' else (s.withHost l o).raiseUnderrun c) : Host.Outcome State Fault Refusal)
      = .next (t.withHost l o) := by
  subst hu
  cases h
  split <;> rfl

theorem execDecHop_withHost (h : execDecHop s = .next t) :
    execDecHop (s.withHost l o) = .next (t.withHost l o) := by
  unfold execDecHop at h ⊢
  rw [decodeRecord_congr (s := s.withHost l o) (t := s) rfl rfl rfl rfl]
  split at h <;> cases h <;> rfl

theorem execRoute_withHost (h : execRoute s = .next t) : execRoute (s.withHost l o) = .next (t.withHost l o) := by
  cases hk : sinkOf s.hdr.hop.switch_id with
  | none =>
    cases (execRoute_drop hk).symm.trans h
    rw [execRoute_drop (s := s.withHost l o) hk, State.advanceHop_withHost]
  | some k =>
    have h := (execRoute_sink hk).symm.trans h
    have hw := execRoute_sink (s := s.withHost l o) hk
    rw [State.emitSink_withHost, State.advanceHop_withHost] at hw
    by_cases ha : s.sinkReply = .fail
    · cases (if_pos ha).symm.trans h
      exact hw.trans (if_pos ha)
    · cases (if_neg ha).symm.trans h
      exact hw.trans (if_neg ha)

theorem coreStep_withHost (h : coreStep s = .next t) : coreStep (s.withHost l o) = .next (t.withHost l o) := by
  have hseq : (s.withHost l o).seq = s.seq := rfl
  unfold coreStep at h ⊢
  rw [hseq]
  split at h
  · next i hi =>
    rcases decodeSequencer_ok hi with rfl | rfl | rfl | rfl | rfl | rfl | rfl | rfl <;> dsimp only [exec] at h ⊢
    · exact (execDecReport_eq _).trans (decode_withHost rfl ((execDecReport_eq s).symm.trans h))
    · exact (execDecEth_eq _).trans (decode_withHost rfl ((execDecEth_eq s).symm.trans h))
    · exact (execDecIpv4_eq _).trans (decode_withHost rfl ((execDecIpv4_eq s).symm.trans h))
    · exact (execDecUdp_eq _).trans (decode_withHost rfl ((execDecUdp_eq s).symm.trans h))
    · exact (execDecShim_eq _).trans (decode_withHost rfl ((execDecShim_eq s).symm.trans h))
    · exact (execDecIntmeta_eq _).trans
        (decode_withHost s.afterIntmeta_withHost ((execDecIntmeta_eq s).symm.trans h))
    · exact execDecHop_withHost h
    · exact execRoute_withHost h
  · cases h; rfl
  · cases h

/-- So the core's step leaves both as they are. -/
theorem coreStep_keeps_host (h : coreStep s = .next t) : t.env.script = s.env.script ∧ t.env.held = s.env.held := by
  have hself : coreStep s = .next (t.withHost s.env.script s.env.held) := coreStep_withHost h
  have ht : t = t.withHost s.env.script s.env.held := Host.Outcome.next.inj (h.symm.trans hself)
  exact ⟨congrArg (·.env.script) ht, congrArg (·.env.held) ht⟩

/-- A core that is not busy has no step. -/
theorem coreStep_of_not_busy (hb : ¬ s.busy = true) (h : coreStep s = .next t) : t = s := by
  rcases s.class_cases with hc | hc | hc | hc
  · exact absurd hc hb
  · cases h.symm.trans (terminalStatesHaveNoCoreStep s ((s.ready_iff.mp hc).imp_right fun hend => hend.imp_right .inl))
    rfl
  · cases h.symm.trans (terminalStatesHaveNoCoreStep s (.inr (.inr (.inr hc))))
    rfl
  · cases h.symm.trans (coreStep_reserved (s.reserved_iff.mp hc))

end

/-! ### A running job ends the same while a SUBMIT waits (R94, log 8) -/

/-- A busy core goes on while a SUBMIT is held. -/
theorem step_waiting {s : State} {x : HeldSubmit} (hb : s.busy = true) :
    step (s.withHost [] (some x)) = coreStep (s.withHost [] (some x)) := by
  obtain ⟨-, -, hwait⟩ := busyCoreHoldsSubmit
  exact (hwait (s.withHost [] (some x)) x rfl hb).1 rfl

/-- A job that ends alone ends in the same state after the same steps with a SUBMIT held. -/
theorem JobEnds.run_held {n : Nat} {u v : State} (h : JobEnds n u v) (hs : u.env.script = []) (hh : u.env.held = none) :
    ∃ k ≤ n, Sys2Proof.core.run k u = .next v
      ∧ ∀ x, Sys2Proof.core.run k (u.withHost [] (some x)) = .next (v.withHost [] (some x)) := by
  induction h with
  | done => exact ⟨0, Nat.le_refl 0, rfl, fun _ => rfl⟩
  | aborted => exact ⟨0, Nat.zero_le _, rfl, fun _ => rfl⟩
  | @next n u w v hu hstep h ih =>
    have hcore : coreStep u = .next w := (step_alone hs hh).symm.trans hstep
    obtain ⟨hws, hwh⟩ := coreStep_keeps_host hcore
    obtain ⟨k, hk, halone, hheld⟩ := ih (hws.trans hs) (hwh.trans hh)
    by_cases hb : u.busy = true
    · exact ⟨k + 1, Nat.succ_le_succ hk, (run_next hstep k).trans halone, fun x =>
        (run_next ((step_waiting hb).trans (coreStep_withHost hcore)) k).trans (hheld x)⟩
    · cases coreStep_of_not_busy hb hcore
      exact ⟨k, Nat.le_succ_of_le hk, halone, hheld⟩

/-! ### Every busy state of the invariant is in the middle of a job -/

/-- What a busy state has computed of its job, but for the events already in the logs. -/
def State.computed (s : State) : JobAcc := ⟨s.hopIdx.toNat, s.pos.toNat, s.hdr, [], []⟩

section
variable {s : State} {c : BitVec 4} (hc : s.seq = c)
include hc

theorem State.reached_of_running (h8 : c.toNat ≤ 8) : s.reached = c.toNat :=
  hc ▸ State.reached_eq_seq (by rw [hc]; omega)

theorem Inv.inJob_computed (h : Inv s) (h8 : c.toNat ≤ 8) : s.inJob c s.computed = s := by
  subst hc
  obtain ⟨hu, hf⟩ := ne_abort (c := s.seq) (by omega)
  have hresult := h.status.result.trans (resultOf_running h8)
  have herr := h.status.noError hu hf
  cases s
  cases hresult; cases herr
  simp only [State.inJob, State.afterJob, State.computed, List.append_nil, BitVec.ofNat_toNat, BitVec.setWidth_eq]
  rfl

/-- Before the first record POS is at the start of the stage, inside the payload, and no record is counted. -/
theorem Inv.computed_header (h : Inv s) (h6 : c.toNat ≤ 6) :
    s.computed.pos = s.stageStart c.toNat ∧ s.stageStart c.toNat ≤ 8 * s.len.toNat ∧ s.computed.hop = 0 := by
  have hp := h.pos.pos_of_running hc (by omega)
  exact ⟨hp, hp ▸ h.pos.inBuffer, h.hopIdx.headers (by rw [State.reached_of_running hc (by omega)]; exact h6)⟩

theorem Inv.computed_record (h : Inv s) (h78 : c.toNat = 7 ∨ c.toNat = 8) : s.computed.hop < s.job.nt.toNat :=
  h.hopIdx.record (by rw [State.reached_of_running hc (by omega)]; exact h78)

end

/-- From every busy state of the invariant the job ends within 6 + 2·NT steps: what is left of it is counted from the
stage it has reached. -/
theorem Inv.jobEnds {s : State} (h : Inv s) (hb : s.busy = true) (hs : s.env.script = []) (hh : s.env.held = none) :
    ∃ n ≤ 6 + 2 * s.job.nt.toNat, ∃ r, JobEnds n s (s.afterJob r) := by
  have codes : ∀ c : BitVec 4, 1 ≤ c.toNat → c.toNat ≤ 8 → c = Stage.report ∨ c = Stage.eth ∨ c = Stage.ipv4
      ∨ c = Stage.udp ∨ c = Stage.shim ∨ c = Stage.intmeta ∨ c = Stage.hop ∨ c = Stage.route := by decide
  obtain ⟨h1, h8⟩ := s.busy_iff.mp hb
  have hf : Config.fphMin ≤ s.job.fph.toNat := h.fphMin (ne_idle h1)
  have hfit : s.computed.pos ≤ 8 * s.len.toNat := h.pos.inBuffer
  have from_stage : ∀ {c n r}, s.seq = c → c.toNat ≤ 8 → n ≤ 6 + 2 * s.job.nt.toNat →
      JobEnds n (s.inJob c s.computed) (s.afterJob r) →
      ∃ n ≤ 6 + 2 * s.job.nt.toNat, ∃ r, JobEnds n s (s.afterJob r) := fun hc h8 hn hends =>
    ⟨_, hn, _, by rwa [h.inJob_computed hc h8] at hends⟩
  rcases codes _ h1 h8 with hc | hc | hc | hc | hc | hc | hc | hc
  · obtain ⟨hp, -, h0⟩ := h.computed_header hc (by decide)
    exact from_stage hc (by decide) (by omega) (.fromReport hs hh hf hp h0)
  · obtain ⟨hp, hfit, h0⟩ := h.computed_header hc (by decide)
    exact from_stage hc (by decide) (by omega) (.fromEth hs hh hf hp hfit h0)
  · obtain ⟨hp, hfit, h0⟩ := h.computed_header hc (by decide)
    exact from_stage hc (by decide) (by omega) (.fromIpv4 hs hh hf hp hfit h0)
  · obtain ⟨hp, hfit, h0⟩ := h.computed_header hc (by decide)
    exact from_stage hc (by decide) (by omega) (.fromUdp hs hh hf hp hfit h0)
  · obtain ⟨hp, hfit, h0⟩ := h.computed_header hc (by decide)
    exact from_stage hc (by decide) (by omega) (.fromShim hs hh hf hp hfit h0)
  · obtain ⟨hp, hfit, h0⟩ := h.computed_header hc (by decide)
    exact from_stage hc (by decide) (by omega) (.fromIntmeta hs hh hf hp hfit h0)
  · have hlt := h.computed_record hc (.inl rfl)
    have hends := JobEnds.records hs hh hf (s.job.nt.toNat - s.computed.hop) s.computed (by omega) hfit
    rw [State.atRecord, if_neg (by omega)] at hends
    exact from_stage hc (by decide) (by omega) hends
  · have hlt := h.computed_record hc (.inr rfl)
    refine from_stage hc (by decide) ?_ (.route hs hh (rest := s.job.nt.toNat - (s.computed.hop + 1)) hlt
      fun d hdhop hdpos => .records hs hh hf _ d ?_ ?_)
    all_goals omega

/-- The job of `s` has ended in `v`, and nothing is left to come from outside. -/
structure JobEnded (s v : State) : Prop where
  seq : v.seq = Stage.done ∨ v.seq = Stage.underrun ∨ v.seq = Stage.fatal
  buf : v.buf = s.buf
  len : v.len = s.len
  cfg : v.cfg = s.cfg
  script : v.env.script = []
  held : v.env.held = none

/-- A busy state of the invariant ends its job in the same state after the same steps, alone or with a SUBMIT held. -/
theorem Inv.runs_to_end {s : State} (h : Inv s) (hb : s.busy = true) (hs : s.env.script = []) (hh : s.env.held = none) :
    ∃ k ≤ 6 + 2 * s.job.nt.toNat, ∃ v, JobEnded s v ∧ Sys2Proof.core.run k s = .next v
      ∧ ∀ x, Sys2Proof.core.run k (s.withHost [] (some x)) = .next (v.withHost [] (some x)) := by
  obtain ⟨n, hn, r, hends⟩ := h.jobEnds hb hs hh
  obtain ⟨hseq, -⟩ := hends.within
  obtain ⟨k, hk, hrun⟩ := hends.run_held hs hh
  exact ⟨k, hk.trans hn, _, ⟨hseq, rfl, rfl, rfl, (Env.takeSinkReplies_script _ _).trans hs,
    (Env.takeSinkReplies_held _ _).trans hh⟩, hrun⟩

/-! ### The held SUBMIT is taken (R94) -/

section
variable {s v : State} (h : JobEnded s v) (x : HeldSubmit)
include h

/-- The bytes that came with a held SUBMIT are on the byte channel when it is taken. -/
theorem JobEnded.step_held : step (v.withHost [] (some x))
    = execSubmit x.len { v with env := { v.env with byteChannel := x.bytes } } := by
  have codes : ∀ c : BitVec 4, c = Stage.done ∨ c = Stage.underrun ∨ c = Stage.fatal → ¬ c.toNat ≤ 8 ∧ c.toNat < 12 := by
    decide
  obtain ⟨h8, h12⟩ := codes _ h.seq
  have hbusy : (v.withHost [] (some x)).busy = false := by simp [State.busy, State.withHost, h8]
  have henv : ({ v.env with script := [], held := none, byteChannel := x.bytes } : Env)
      = { v.env with byteChannel := x.bytes } := by rw [← h.script, ← h.held]
  obtain ⟨-, htaken, -⟩ := busyCoreHoldsSubmit
  rw [← henv]
  exact htaken (v.withHost [] (some x)) x rfl hbusy h12 nofun

theorem JobEnded.step_held_fatal (hfatal : v.seq = Stage.fatal) : step (v.withHost [] (some x))
    = .next (({ v with env := { v.env with byteChannel := x.bytes } } : State).refuse .submitAfterFatal) :=
  (h.step_held x).trans (execSubmit_fatal hfatal _ x.len)

theorem JobEnded.step_held_starts (hfatal : v.seq ≠ Stage.fatal) (hc : s.cfgReady = true)
    (hf : Config.fphMin ≤ s.cfg.fph.toNat) (hn : x.len ≤ Config.bufLenMax) (hb : x.len ≤ x.bytes.length) :
    step (v.withHost [] (some x)) = .next (v.startJob x.len (x.bytes.take x.len)) := by
  have hready : v.ready = true := v.ready_iff.mpr (.inr (h.seq.imp_right fun hv => hv.resolve_right hfatal))
  have hc : v.cfgReady = true := by rw [State.cfgReady, h.cfg]; exact hc
  exact (h.step_held x).trans (execSubmit_startJob (s := { v with env := { v.env with byteChannel := x.bytes } })
    hready hc (h.cfg ▸ hf) hn hb)

end

theorem State.startJob_atJobStart {s : State} (h : Config.fphMin ≤ s.cfg.fph.toNat) (n : Nat) (bytes : List Byte) :
    (s.startJob n bytes).atJobStart = true := by
  simp only [State.atJobStart, Bool.and_eq_true, decide_eq_true_eq]
  exact ⟨⟨⟨⟨⟨rfl, rfl⟩, rfl⟩, rfl⟩, rfl⟩, h⟩

/-! ### Two jobs in a row (R125) -/

/-- A run goes on from where a shorter run ended. -/
theorem run_add {a b : Nat} {s t : State} (h : Sys2Proof.core.run a s = .next t) :
    Sys2Proof.core.run (a + b) s = Sys2Proof.core.run b t := by
  induction a generalizing s with
  | zero => cases h; rw [Nat.zero_add]
  | succ a ih =>
    obtain ⟨u, hu, hrun⟩ := run_succ h
    rw [Nat.succ_add, run_next hu, ih hrun]

theorem run_add_one {a : Nat} {s t u : State} (h : Sys2Proof.core.run a s = .next t) (hu : step t = .next u) :
    Sys2Proof.core.run (a + 1) s = .next u :=
  (run_add h).trans (run_next hu 0)

/-- The host's SUBMIT to a busy core is held with its bytes. -/
theorem step_submit_busy {s : State} {w : Word} {bytes : List Byte} {n : Nat} (hb : s.busy = true)
    (hh : s.env.held = none) (hs : s.env.script = [.command w bytes]) (hw : decodeHost w = .ok (.submit n)) :
    step s = .next (({ s with env := { s.env with script := [], byteChannel := [] } } : State).withHost []
      (some ⟨n, bytes⟩)) := by
  obtain ⟨-, h8⟩ := s.busy_iff.mp hb
  exact (step_command (by omega) hh hs hw).trans (if_pos hb)

/-- Settles O56: the running job ends the same with the SUBMIT held; then the SUBMIT is taken as any other, and its job
is one whole run of the job function. -/
theorem heldSubmitStartsTheNextJob : Obligations.HeldSubmitStartsTheNextJob := by
  intro s w bytes n hinv hb hh hs hw hn hcfg hfph
  have hlone : Inv { s with env := { s.env with script := [], byteChannel := [] } } := hinv.withEnv _ List.nil_suffix
  obtain ⟨k, hk, v, hend, halone, hheld⟩ := hlone.runs_to_end hb rfl hh
  have hfirst : Sys2Proof.core.run (1 + k) s = .next (v.withHost [] (some ⟨n, bytes⟩)) := by
    rw [Nat.add_comm, run_next (step_submit_busy hb hh hs hw), hheld]
  refine ⟨k, v, hk, halone, State.withHost_of_script hend.script ▸ hfirst, hend.seq, hend.buf, hend.len,
    fun hfatal => run_add_one hfirst (hend.step_held_fatal _ hfatal), fun hfatal => ?taken⟩
  case taken =>
    have hlen : n ≤ Config.bufLenMax := Nat.le_of_lt_succ (of_decide_eq_true (encode_decodeHost hw).1)
    have hsecond := run_add_one hfirst (hend.step_held_starts ⟨n, bytes⟩ hfatal hcfg hfph hlen hn)
    have hstart : (v.startJob n (bytes.take n)).atJobStart = true := State.startJob_atJobStart (hend.cfg ▸ hfph) _ _
    exact ⟨hsecond, (run_add hsecond).trans ((jobEnds_jobRun hstart hend.script hend.held).run (Nat.le_refl _))⟩

end Sys2Proof.Machine
end
